-- ==== Sys2Proof/Word.lean ====
section
/-! DEFINITION. The words of the device: the bytes on the data bus, the rows of a glyph, the transaction word. -/

namespace Sys2Proof

/-- A byte on the data bus: an instruction byte or a character code, unsigned (spec/20_memory.md R70). -/
abbrev Byte := BitVec 8

/-- One 5-bit row of a glyph bitmap (spec/00_scope.md R8, `ROW_BITS`). -/
abbrev Row := BitVec 5

/-- A glyph bitmap: `GLYPH_ROWS` = 8 rows, numbered 0 to 7 (spec/00_scope.md R8, spec/10_state.md R22). -/
abbrev Bitmap := Vector Row 8

/-- The 10-bit transaction word `T = RS ++ RW ++ DB` (spec/30_encoding.md R91). -/
abbrev TWord := BitVec 10

/-- The all-zero bitmap of an undefined glyph and of a constructed cell (spec/40_glyph_store.md R120, spec/10_state.md R51). -/
def Bitmap.zero : Bitmap := Vector.replicate 8 0

end Sys2Proof
end

