-- ==== Sys2Proof/Config.lean ====
section
/-! DEFINITION. What a construction of the device fixes: the implementation parameters of spec/00_scope.md R5 to R10
and the CGROM table. Their default values and derived names stand in Machine/Params.lean. -/

namespace Sys2Proof

/-- `EM`: the direction the address counter moves after each data write (spec/10_state.md R27). -/
inductive EntryMode where
  | increment
  | decrement
  deriving DecidableEq, Repr

/-- `SM`: whether every data write also shifts the visible window (spec/10_state.md R28). -/
inductive ShiftMode where
  | none
  | left
  | right
  deriving DecidableEq, Repr

/-- `DEC_UNDERFLOW` (spec/00_scope.md R10): where a decrement below bank 0 goes (log 15). -/
inductive DecUnderflow where
  | wrapToBank1End
  | freeRun
  deriving DecidableEq, Repr

/-- `SLOT_OOR` (spec/00_scope.md R10): what a custom-glyph slot above 7 does (log 19). -/
inductive SlotOor where
  | failFast
  | ignore
  deriving DecidableEq, Repr

/-- The three opcode parameters of spec/00_scope.md R7. -/
structure Opcodes where
  clear : Byte
  shiftLeft : Byte
  shiftRight : Byte
  deriving DecidableEq, Repr

/-- The parameters of one construction (spec/00_scope.md R5 to R10). `ROWS` is fixed at 2 (log 22); the fixed glyph
parameters of R8 are in the types. -/
structure Config where
  /-- `TOTAL_COLUMNS`: cells per bank. -/
  totalColumns : Nat
  /-- `VISIBLE_COLUMNS`: width of the visible window. -/
  visibleColumns : Nat
  /-- `BANK0_BASE`. -/
  bank0Base : Nat
  /-- `BANK1_BASE`. -/
  bank1Base : Nat
  /-- `AC_WIDTH`: width in bits of the address counter. -/
  acWidth : Nat
  /-- `OPC_CLEAR`, `OPC_SHIFT_LEFT`, `OPC_SHIFT_RIGHT`. -/
  opcodes : Opcodes
  /-- `CGROM`: a partial map from codes to bitmaps, as a table; of two entries for one code the first counts (log 24).
  Entries for codes 0 to 7 are never read (spec/10_state.md R25). -/
  cgrom : List (Byte × Bitmap)
  /-- `RESET_EM`. -/
  resetEM : EntryMode
  /-- `RESET_SM`. -/
  resetSM : ShiftMode
  /-- `RESET_D`. -/
  resetD : Bool
  /-- `RESET_C`. -/
  resetC : Bool
  /-- `RESET_B`. -/
  resetB : Bool
  /-- `DEC_UNDERFLOW`. -/
  decUnderflow : DecUnderflow
  /-- `SLOT_OOR`. -/
  slotOor : SlotOor
  deriving DecidableEq, Repr

/-- The two facts about a bitmap's orientation that the document leaves unsaid (spec/00_scope.md R8). -/
structure RowBitOrder where
  /-- Bit 4 of a row, not bit 0, is the leftmost pixel. -/
  bit4Leftmost : Bool
  /-- Row 0 is the top row. -/
  row0Top : Bool
  deriving DecidableEq, Repr, Inhabited

/-- `ROW_BIT_ORDER`: open. No rule of the spec reads it, only a rendering sink would (spec/93_implementation_defined.md
U6); an uninterpreted constant, so nothing can be proved of its value (log 21). -/
opaque Config.rowBitOrder : RowBitOrder

end Sys2Proof
end

