-- ==== Sys2Proof/Machine/Params.lean ====
section
/-! DEFINITION. The parameters: their derived names, their constraints (spec/00_scope.md R6, R11), the values this
hardware takes by default (R5 to R10), and the reset values that are no parameter (spec/10_state.md R55, R56). -/

namespace Sys2Proof

/-- `BANK0_END` (spec/00_scope.md R6). -/
def Config.bank0End (p : Config) : Nat := p.bank0Base + p.totalColumns - 1

/-- `BANK1_END` (spec/00_scope.md R6). -/
def Config.bank1End (p : Config) : Nat := p.bank1Base + p.totalColumns - 1

/-- `AC_MOD` (spec/00_scope.md R6). -/
def Config.acMod (p : Config) : Nat := 2 ^ p.acWidth

/-- `WS_DEFAULT`, the default window start; an odd difference rounds down (spec/10_state.md R52; log 13). -/
def Config.wsDefault (p : Config) : Nat := (p.totalColumns - p.visibleColumns) / 2

/-- The default window-start address, in bank 0 (spec/10_state.md R54; log 12). -/
def Config.acDefault (p : Config) : Nat := p.bank0Base + p.wsDefault

/-- The three opcodes are pairwise distinct (spec/00_scope.md R11). -/
abbrev Opcodes.Distinct (o : Opcodes) : Prop :=
  o.clear ≠ o.shiftLeft ∧ o.clear ≠ o.shiftRight ∧ o.shiftLeft ≠ o.shiftRight

/-- A construction is legal only if all of these hold (spec/00_scope.md R11; log 13). An opcode is a byte by its type. -/
abbrev Config.Legal (p : Config) : Prop :=
  1 ≤ p.visibleColumns ∧ p.visibleColumns ≤ p.totalColumns ∧
  p.bank0Base + p.totalColumns ≤ p.bank1Base ∧
  p.bank1Base + p.totalColumns ≤ p.acMod ∧
  p.opcodes.Distinct

/-- The default opcodes of spec/00_scope.md R7 (PRESUMED, from the controller family; log 5). -/
def Opcodes.default : Opcodes where
  clear := 0x01
  shiftLeft := 0x18
  shiftRight := 0x1C

/-- The default parameters of spec/00_scope.md R5 to R10: the construction this hardware is, unless a construction says
otherwise (bank bases and AC width PRESUMED, log 6; reset modes DESIGN CHOICE, log 10). -/
def Config.default : Config where
  totalColumns := 40
  visibleColumns := 16
  bank0Base := 0x00
  bank1Base := 0x40
  acWidth := 7
  opcodes := Opcodes.default
  cgrom := []
  resetEM := .increment
  resetSM := .none
  resetD := true
  resetC := false
  resetB := false
  decUnderflow := .wrapToBank1End
  slotOor := .failFast

/-- `RS`, `RW` and `ENP` at reset: the latch is Idle (spec/10_state.md R55; DESIGN CHOICE, log 9). -/
def latchReset : Bool := false

/-- Every CGRAM slot at reset (spec/10_state.md R56; DESIGN CHOICE for slots 1 to 7, log 11). -/
def glyphReset : Bitmap := Bitmap.zero

end Sys2Proof
end

