-- ==== Sys2Proof/Syntax.lean ====
section
/-! DEFINITION. The instructions: one constructor per row of spec/opcode_table.json. -/

namespace Sys2Proof

/-- What one falling edge of EN delivers (spec/30_encoding.md R91, R92). `nop` and `read` carry the bits the device
ignores, so that no bit of a transaction word is lost. -/
inductive Instr where
  /-- `CLR`, clear display (spec/43_instructions.md R181). -/
  | clr
  /-- `SHL`, shift display left (spec/43_instructions.md R183). -/
  | shl
  /-- `SHR`, shift display right (spec/43_instructions.md R182). -/
  | shr
  /-- `NOP`, an unrecognised instruction byte (spec/43_instructions.md R185). -/
  | nop (byte : Byte)
  /-- `DATA`, the data write of the character code `v` (spec/44_data_write.md R210). -/
  | data (v : Byte)
  /-- `READ`, the read stub; the device ignores both bits of operand (spec/42_bus_latch.md R166). -/
  | read (rs : Bool) (db : Byte)
  deriving DecidableEq, Repr

end Sys2Proof
end

