-- ==== Sys2Proof/WellFormed.lean ====
section
/-! DEFINITION. Which terms of `Instr` are instructions of a device with given opcodes. -/

namespace Sys2Proof

/-- A `NOP` is a byte none of the three opcode parameters (spec/43_instructions.md R185); every other term is an
instruction at every value of its operands (spec/30_encoding.md R96, R97). -/
def Instr.wellFormed (o : Opcodes) : Instr → Bool
  | .clr => true
  | .shl => true
  | .shr => true
  | .nop byte => byte != o.clear && byte != o.shiftLeft && byte != o.shiftRight
  | .data _ => true
  | .read _ _ => true

end Sys2Proof
end

