-- ==== Sys2Proof/Decode.lean ====
section
/-! DEFINITION. The transaction word, read and written: spec/30_encoding.md R91 to R97, spec/43_instructions.md R180.
Every one of the 1024 words is an instruction; a list of bytes that is no transaction word is rejected by name. -/

namespace Sys2Proof

/-- `T = RS ++ RW ++ DB`, that is `T = RS * 512 + RW * 256 + DB` (spec/30_encoding.md R91). -/
def packWord (rs rw : Bool) (db : Byte) : TWord :=
  BitVec.ofNat 10 (rs.toNat * 512 + rw.toNat * 256 + db.toNat)

/-- Bit 9 of the transaction word, `RS`. -/
def wordRS (t : TWord) : Bool := t.getLsbD 9

/-- Bit 8 of the transaction word, `RW`. -/
def wordRW (t : TWord) : Bool := t.getLsbD 8

/-- Bits 7:0 of the transaction word, `DB`. -/
def wordDB (t : TWord) : Byte := t.extractLsb' 0 8

/-- `dispatch` as a choice of instruction: equality on all eight bits, in the order the decoder tests
(spec/43_instructions.md R180, spec/30_encoding.md R95; log 5). -/
def decodeByte (o : Opcodes) (db : Byte) : Instr :=
  if db = o.shiftRight then .shr
  else if db = o.shiftLeft then .shl
  else if db = o.clear then .clr
  else .nop db

/-- First-level decode: RW is tested before RS (spec/30_encoding.md R92). -/
def decodeWord (o : Opcodes) (t : TWord) : Instr :=
  if wordRW t then .read (wordRS t) (wordDB t)
  else if wordRS t then .data (wordDB t)
  else decodeByte o (wordDB t)

/-- Why a list of bytes is no transaction word. -/
inductive DecodeError where
  /-- Fewer than the two bytes a transaction word is laid out in (log 7). -/
  | tooShort
  /-- The second byte has a bit above RW and RS set: the device has no such line (log 7). -/
  | noSuchLine (high : Byte)
  deriving DecidableEq, Repr

/-- A transaction word laid out in two bytes, the data byte first, then RW and RS in bits 0 and 1 of the second byte
(the layout is the model's own, log 7). -/
def wordBytes (t : TWord) : List Byte :=
  [wordDB t, BitVec.ofNat 8 ((wordRS t).toNat * 2 + (wordRW t).toNat)]

/-- Reads one transaction from the front of a list of bytes and returns the rest. -/
def decodeBytes (o : Opcodes) : List Byte → Except DecodeError (Instr × List Byte)
  | lo :: hi :: rest =>
    if hi.toNat < 4 then .ok (decodeWord o (packWord (hi.getLsbD 1) (hi.getLsbD 0) lo), rest)
    else .error (.noSuchLine hi)
  | [_] => .error .tooShort
  | [] => .error .tooShort

/-- The transaction word of an instruction (spec/30_encoding.md R92, R94; spec/opcode_table.json). -/
def encode (o : Opcodes) : Instr → TWord
  | .clr => packWord false false o.clear
  | .shl => packWord false false o.shiftLeft
  | .shr => packWord false false o.shiftRight
  | .nop byte => packWord false false byte
  | .data v => packWord true false v
  | .read rs db => packWord rs true db

/-- `n` bytes of a number, the least significant first. -/
def littleEndian : Nat → Nat → List Byte
  | 0, _ => []
  | n + 1, w => BitVec.ofNat 8 w :: littleEndian n (w / 256)

/-- The bytes of an instruction of `nbits` bits whose bits are `w`, every bit above `nbits` zero: at least the two of a
transaction word. -/
def tableBytes (nbits w : Nat) : List Byte := littleEndian (max 2 ((nbits + 7) / 8)) (w % 2 ^ nbits)

/-- The transaction word whose bits are `w`, every bit above `nbits` zero. -/
def tableWord (nbits w : Nat) : TWord := BitVec.ofNat 10 (w % 2 ^ nbits)

/-- What the decoder, with the default opcodes, reads from the table's bits. -/
def decodeTableWord (nbits w : Nat) : Option Instr :=
  match decodeBytes Opcodes.default (tableBytes nbits w) with
  | .ok (i, _) => some i
  | .error _ => none

end Sys2Proof
end

