-- ==== Sys2Proof/Machine/State.lean ====
section
/-! DEFINITION. Everything the device remembers (spec/10_state.md R20), the calls the host has still to make, what the
device has given out, the reasons a step can stop, and the state after reset (spec/10_state.md R50). -/

namespace Sys2Proof.Machine

open Sys2Proof

/-- The two banks of DDRAM (spec/10_state.md R21; log 22). -/
inductive Bank where
  | bank0
  | bank1
  deriving DecidableEq, Repr

/-- One display-data memory location (spec/10_state.md R22): the bitmap is a stored copy, not a function of the code. -/
structure Cell where
  code : Byte
  bmp : Bitmap
  deriving DecidableEq, Repr

/-- What every cell holds at construction (spec/10_state.md R51), and so what an unlisted address reads as. -/
def Cell.blank : Cell where
  code := 0
  bmp := Bitmap.zero

/-- DDRAM: (DDRAM address, cell) pairs in one canonical form, `Memory.wf` of Machine/Ops.lean (log 4). -/
abbrev Memory := List (Nat × Cell)

/-- The operands of `Preset`: each named register takes the given port value (spec/46_facade_host_ports.md R265). `em`
is 1 for Increment; `sm` is 0 None, 1 Left, 2 Right (spec/10_state.md R27, R28). -/
structure PresetFields where
  ac : Option Nat
  em : Option Bool
  sm : Option (BitVec 2)
  d : Option Bool
  c : Option Bool
  b : Option Bool
  deriving DecidableEq, Repr

/-- One call of a port of the block (spec/46_facade_host_ports.md R262). -/
inductive HostCall where
  /-- `handleBusEdge(RS, RW, EN, dataByte)` (spec/30_encoding.md R90). -/
  | edge (rs rw en : Bool) (db : Byte)
  /-- `sendData(v)` (spec/46_facade_host_ports.md R260). -/
  | sendData (v : Byte)
  /-- `refresh()` (spec/46_facade_host_ports.md R261). -/
  | refresh
  /-- `render()` (spec/45_render_cursor.md R240). -/
  | render
  /-- `updateCursor()` (spec/45_render_cursor.md R242). -/
  | updateCursor
  /-- `writeCustomGlyph(slot, bitmap)` (spec/40_glyph_store.md R123). -/
  | writeCustomGlyph (slot : Nat) (bitmap : Bitmap)
  /-- `Preset(fields)` (spec/46_facade_host_ports.md R265). -/
  | preset (fields : PresetFields)
  /-- `QueryCell(b, o)` (spec/46_facade_host_ports.md R266). -/
  | queryCell (bank offset : Nat)
  /-- `QueryGlyph(s)` (spec/46_facade_host_ports.md R266). -/
  | queryGlyph (slot : Nat)
  /-- `QueryRegs()` (spec/46_facade_host_ports.md R266). -/
  | queryRegs
  deriving DecidableEq, Repr

/-- What the rendering sink receives per `render`: one sequence of character codes per row (spec/45_render_cursor.md
R240). -/
structure Frame where
  row0 : List Byte
  row1 : List Byte
  deriving DecidableEq, Repr

/-- What `QueryRegs` answers (spec/46_facade_host_ports.md R266); `em` and `sm` in their port encoding. -/
structure RegsReply where
  ac : Nat
  em : Bool
  sm : BitVec 2
  ws : Nat
  we : Nat
  d : Bool
  c : Bool
  b : Bool
  rs : Bool
  rw : Bool
  deriving DecidableEq, Repr

/-- An answer of the `Query` port (spec/46_facade_host_ports.md R266). -/
inductive Reply where
  | cell (code : Byte) (bmp : Bitmap)
  | glyph (bmp : Bitmap)
  | regs (r : RegsReply)
  deriving DecidableEq, Repr

/-- The device, the host's remaining calls and what the device has given out. -/
@[ext]
structure State where
  /-- The construction parameters: configuration, not state (spec/10_state.md R45); no step writes it (log 1). -/
  config : Config
  /-- `DDRAM` (spec/10_state.md R21). -/
  ddram : Memory
  /-- `CGRAM`: slot `s` is the glyph of character code `s` (spec/10_state.md R24). -/
  cgram : Vector Bitmap 8
  /-- `AC`, the address counter (spec/10_state.md R26; log 2). -/
  ac : Nat
  /-- `EM`, the entry mode (spec/10_state.md R27). -/
  em : EntryMode
  /-- `SM`, the shift mode (spec/10_state.md R28). -/
  sm : ShiftMode
  /-- `WS`, the window start, a column (spec/10_state.md R29; log 2). -/
  ws : Nat
  /-- `WE`, the window end, a column (spec/10_state.md R29; log 2). -/
  we : Nat
  /-- `RS` of the most recent bus call (spec/10_state.md R30). -/
  rs : Bool
  /-- `RW` of the most recent bus call (spec/10_state.md R30). -/
  rw : Bool
  /-- `ENP`: EN of the most recent bus call; false is Idle, true is ReadyToLatch (spec/10_state.md R30, R31). -/
  enp : Bool
  /-- `D`, displayOn: stored, read by no operation but `QueryRegs` (spec/10_state.md R32, R33). -/
  d : Bool
  /-- `C`, cursorOn (spec/10_state.md R32). -/
  c : Bool
  /-- `B`, blinkOn (spec/10_state.md R32). -/
  b : Bool
  /-- The calls the host has still to make, the next one first (the model's own, log 3). -/
  host : List HostCall
  /-- What the rendering sink has received, oldest first (spec/46_facade_host_ports.md R264; log 3). -/
  sink : List Frame
  /-- What the `Query` port has answered, oldest first (spec/46_facade_host_ports.md R266; log 3). -/
  replies : List Reply
  deriving DecidableEq, Repr

/-- The offending port and value of a contract violation (spec/60_exceptions.md R284). -/
inductive Violation where
  /-- `writeCustomGlyph` with a slot above 7. -/
  | customGlyphSlot (slot : Nat)
  /-- An illegal `Preset`. -/
  | preset (fields : PresetFields)
  /-- An out-of-range `QueryCell` selector. -/
  | queryCell (bank offset : Nat)
  /-- An out-of-range `QueryGlyph` selector. -/
  | queryGlyph (slot : Nat)
  deriving DecidableEq, Repr

/-- The one fault of the model. -/
inductive Fault where
  /-- `ContractViolation` (spec/60_exceptions.md R284): raised by `writeCustomGlyph`, `Preset` and `Query`, never by a
  bus transaction. Safe: the run is no run of a correct host and nothing is claimed of it (log 19). -/
  | contractViolation (what : Violation)
  deriving DecidableEq, Repr

/-- Why there is no meaning to give. -/
inductive Refusal where
  /-- An instruction with no meaning yet: raised by no arm of `exec`. Safe. -/
  | notModelled (mnemonic : String)
  /-- Construction with illegal parameters (spec/00_scope.md R11): raised by `State.construct` only, never by a step.
  Safe: the device does not exist. -/
  | illegalConstruction
  deriving DecidableEq, Repr

/-- The reset state of a construction (spec/10_state.md R50, spec/70_reset_and_hazards.md R310), with no host call
pending and nothing given out (log 8). -/
def State.initial (p : Config) : State where
  config := p
  ddram := []
  cgram := Vector.replicate 8 glyphReset
  ac := p.acDefault
  em := p.resetEM
  sm := p.resetSM
  ws := p.wsDefault
  we := p.wsDefault + p.visibleColumns - 1
  rs := latchReset
  rw := latchReset
  enp := latchReset
  d := p.resetD
  c := p.resetC
  b := p.resetB
  host := []
  sink := []
  replies := []

/-- The machine right after reset, with the default parameters (spec/70_reset_and_hazards.md R311). -/
def State.reset : State := State.initial Config.default

end Sys2Proof.Machine
end

