-- ==== Sys2Proof/Machine/Operands.lean ====
section
/-! DEFINITION. How an access is addressed: the DDRAM address map (spec/20_memory.md R61 to R65) and the
address-counter engine, the one addressing mode's post-modification (spec/44_data_write.md R219). -/

namespace Sys2Proof.Machine

open Sys2Proof

/-- A valid address is one inside either bank range (spec/20_memory.md R62). -/
abbrev validAddr (p : Config) (a : Nat) : Prop :=
  (p.bank0Base ≤ a ∧ a ≤ p.bank0End) ∨ (p.bank1Base ≤ a ∧ a ≤ p.bank1End)

/-- `decode`: an address outside both ranges names bank 0, offset 0 (spec/20_memory.md R64). -/
def decodeAddr (p : Config) (a : Nat) : Bank × Nat :=
  if p.bank0Base ≤ a ∧ a ≤ p.bank0End then (.bank0, a - p.bank0Base)
  else if p.bank1Base ≤ a ∧ a ≤ p.bank1End then (.bank1, a - p.bank1Base)
  else (.bank0, 0)

/-- `encode`, the inverse of `decode` on valid addresses (spec/20_memory.md R65). -/
def encodeAddr (p : Config) : Bank → Nat → Nat
  | .bank0, o => p.bank0Base + o
  | .bank1, o => p.bank1Base + o

/-- The address of the cell an access at `a` reaches: `a` itself when it is valid, else that of bank 0, offset 0. -/
def cellAddr (p : Config) (a : Nat) : Nat := encodeAddr p (decodeAddr p a).1 (decodeAddr p a).2

/-- One step up, modulo `AC_MOD` (spec/44_data_write.md R214, R218). -/
def acSucc (p : Config) (a : Nat) : Nat := (a + 1) % p.acMod

/-- One step down, modulo `AC_MOD` (spec/44_data_write.md R214, R218). -/
def acPred (p : Config) (a : Nat) : Nat := (a + p.acMod - 1) % p.acMod

/-- `nextAC` (spec/44_data_write.md R219; log 15, log 16). -/
def nextAC (p : Config) (em : EntryMode) (a : Nat) : Nat :=
  match em with
  | .increment =>
    if a = p.bank0End then p.bank1Base
    else if a = p.bank1End then p.bank0Base
    else acSucc p a
  | .decrement =>
    if a = p.bank1Base then p.bank0End
    else if a = p.bank0Base then
      match p.decUnderflow with
      | .wrapToBank1End => p.bank1End
      | .freeRun => acPred p a
    else acPred p a

/-- The cells in address order: bank 0 ascending, then bank 1 ascending (spec/43_instructions.md R181). -/
def cellOrder (p : Config) : List (Bank × Nat) :=
  (List.range p.totalColumns).map (fun o => (.bank0, o)) ++
    (List.range p.totalColumns).map (fun o => (.bank1, o))

end Sys2Proof.Machine
end

