-- ==== Sys2Proof/Machine/Ops.lean ====
section
/-! DEFINITION. The operations the instructions and ports are built from: memory, glyph resolution, the three cell
primitives, the window shifts, and the one way to stop. -/

namespace Sys2Proof.Machine

open Sys2Proof

/-- Reads the cell at a DDRAM address; an unlisted address reads as the blank cell (log 4). -/
def Memory.read : Memory → Nat → Cell
  | [], _ => Cell.blank
  | e :: m, a => if e.1 = a then e.2 else Memory.read m a

/-- Puts an entry before the first larger address. -/
def Memory.insert : Memory → Nat → Cell → Memory
  | [], a, x => [(a, x)]
  | e :: m, a, x => if a < e.1 then (a, x) :: e :: m else e :: Memory.insert m a x

/-- Writes the cell at a DDRAM address, keeping the canonical form: a blank cell is not listed. -/
def Memory.write (m : Memory) (a : Nat) (x : Cell) : Memory :=
  let rest := m.filter (fun e => e.1 ≠ a)
  if x = Cell.blank then rest else Memory.insert rest a x

/-- The canonical form: addresses strictly rising, no entry equal to what an unlisted address reads as. -/
abbrev Memory.wf (m : Memory) : Prop :=
  m.Pairwise (fun x y => x.1 < y.1) ∧ ∀ e ∈ m, e.2 ≠ Cell.blank

/-- Only addresses with a cell are listed (spec/20_memory.md R61). -/
abbrev Memory.mapped (p : Config) (m : Memory) : Prop := ∀ e ∈ m, validAddr p e.1

/-- `DDRAM[b][o]`, read. -/
def State.cell (s : State) (bank : Bank) (o : Nat) : Cell := s.ddram.read (encodeAddr s.config bank o)

/-- `DDRAM[b][o]`, written. -/
def State.setCell (s : State) (bank : Bank) (o : Nat) (x : Cell) : State :=
  { s with ddram := s.ddram.write (encodeAddr s.config bank o) x }

/-- `CGROM(c)`: the entry for a code, or none (spec/10_state.md R25). -/
def romGlyph : List (Byte × Bitmap) → Byte → Option Bitmap
  | [], _ => none
  | e :: rom, code => if e.1 = code then some e.2 else romGlyph rom code

/-- `resolve`: codes 0 to 7 through CGRAM, the others through CGROM, absent is all-zero (spec/40_glyph_store.md R120). -/
def resolve (s : State) (code : Byte) : Bitmap :=
  if h : code.toNat < 8 then s.cgram[code.toNat]
  else (romGlyph s.config.cgrom code).getD Bitmap.zero

/-- What `setChar(cell, code)` leaves in the cell, whatever it held (spec/41_cell.md R140). -/
def setChar (s : State) (code : Byte) : Cell where
  code := code
  bmp := resolve s code

/-- `FULL_ROW`, all five bits set (spec/00_scope.md R8). -/
def fullRow : Row := 0b11111

/-- `setCursorBar` (spec/41_cell.md R141). -/
def setCursorBar (x : Cell) : Cell := { x with bmp := x.bmp.set 7 fullRow }

/-- `toggleCursorBar` (spec/41_cell.md R142). -/
def toggleCursorBar (x : Cell) : Cell := { x with bmp := x.bmp.set 7 (x.bmp[7] ^^^ fullRow) }

/-- `MemRead(addr, 1)` (spec/00_scope.md R15). -/
def memRead (s : State) (a : Nat) : Cell :=
  s.cell (decodeAddr s.config a).1 (decodeAddr s.config a).2

/-- A write of a whole cell at `decode(addr)`. -/
def memPut (s : State) (a : Nat) (x : Cell) : State :=
  s.setCell (decodeAddr s.config a).1 (decodeAddr s.config a).2 x

/-- `MemWrite(addr, 1, v)`: `setChar` on the cell `decode(addr)` (spec/00_scope.md R15). -/
def memWrite (s : State) (a : Nat) (v : Byte) : State := memPut s a (setChar s v)

/-- `shiftRight`: both bounds down by one, nothing at `WS = 0` (spec/43_instructions.md R186; log 14). -/
def shiftRight (s : State) : State :=
  if s.ws > 0 then { s with ws := s.ws - 1, we := s.we - 1 } else s

/-- `shiftLeft`: both bounds up by one, nothing at `WE = TOTAL_COLUMNS - 1` (spec/43_instructions.md R187; log 14). -/
def shiftLeft (s : State) : State :=
  if s.we < s.config.totalColumns - 1 then { s with ws := s.ws + 1, we := s.we + 1 } else s

/-- The auto-shift of a data write, by `SM` (spec/44_data_write.md R213; log 14). -/
def autoShift (s : State) : State :=
  match s.sm with
  | .right => shiftRight s
  | .left => shiftLeft s
  | .none => s

/-- `writeData`: the five steps of a data write, in order (spec/44_data_write.md R210). -/
def writeData (s : State) (v : Byte) : State :=
  let stored := memWrite s s.ac v
  let shifted := autoShift stored
  { shifted with ac := nextAC shifted.config shifted.em shifted.ac }

/-- `clearDisplay` (spec/43_instructions.md R181; log 18). -/
def clearDisplay (s : State) : State :=
  let cleared := (cellOrder s.config).foldl (fun t x => t.setCell x.1 x.2 (setChar t 0)) s
  { cleared with ac := cleared.config.acDefault }

/-- `raise ContractViolation`: the host's fault, no state (spec/60_exceptions.md R284; log 19). The device has no trap
entry and no trap return (spec/60_exceptions.md R288, R289). -/
def raiseViolation (what : Violation) : Host.Outcome State Fault Refusal := .fault (.contractViolation what)

end Sys2Proof.Machine
end

