-- ==== Sys2Proof/Machine/DataTransfer.lean ====
section
/-! DEFINITION. The meanings of the data write (spec/44_data_write.md) and of the read stub (spec/42_bus_latch.md R166). -/

namespace Sys2Proof.Machine

open Sys2Proof

/-- `DATA` (spec/44_data_write.md R210). -/
def execData (v : Byte) (s : State) : Host.Outcome State Fault Refusal := .next (writeData s v)

/-- `READ`: nothing beyond what every bus call does, and nothing is driven onto the bus (spec/42_bus_latch.md R166;
log 20). -/
def execRead (_rs : Bool) (_db : Byte) (s : State) : Host.Outcome State Fault Refusal := .next s

end Sys2Proof.Machine
end

