-- ==== Sys2Proof/Machine/Instructions.lean ====
section
/-! DEFINITION. The meanings of the instruction transactions (RS = 0, RW = 0): spec/43_instructions.md. -/

namespace Sys2Proof.Machine

open Sys2Proof

/-- `CLR` (spec/43_instructions.md R181). -/
def execClr (s : State) : Host.Outcome State Fault Refusal := .next (clearDisplay s)

/-- `SHL` (spec/43_instructions.md R183). -/
def execShl (s : State) : Host.Outcome State Fault Refusal := .next (shiftLeft s)

/-- `SHR` (spec/43_instructions.md R182). -/
def execShr (s : State) : Host.Outcome State Fault Refusal := .next (shiftRight s)

/-- `NOP`: the byte is silently ignored (spec/43_instructions.md R185). -/
def execNop (_byte : Byte) (s : State) : Host.Outcome State Fault Refusal := .next s

end Sys2Proof.Machine
end

