-- ==== Sys2Proof/Machine/Dispatch.lean ====
section
/-! DEFINITION. One arm per instruction. -/

namespace Sys2Proof.Machine

open Sys2Proof

/-- What one instruction does. -/
def exec (i : Instr) (s : State) : Host.Outcome State Fault Refusal :=
  match i with
  | .clr => Sys2Proof.Machine.execClr s
  | .shl => Sys2Proof.Machine.execShl s
  | .shr => Sys2Proof.Machine.execShr s
  | .nop byte => Sys2Proof.Machine.execNop byte s
  | .data v => Sys2Proof.Machine.execData v s
  | .read rs db => Sys2Proof.Machine.execRead rs db s

end Sys2Proof.Machine
end

