-- ==== Sys2Proof/Machine/Flags.lean ====
section
/-! DEFINITION. The device has no status flags: no operation computes one (spec/10_state.md R42). What stands here are
the mode and display registers' port encodings (spec/10_state.md R27, R28; log 25). -/

namespace Sys2Proof.Machine

open Sys2Proof

/-- `EM` from its port value: 1 is Increment, 0 is Decrement (spec/10_state.md R27). -/
def entryModeOfPort (v : Bool) : EntryMode := if v then .increment else .decrement

/-- `EM` as its port value (spec/10_state.md R27). -/
def entryModeToPort : EntryMode → Bool
  | .increment => true
  | .decrement => false

/-- `SM` from its port value: 0 None, 1 Left, 2 Right, 3 no legal value (spec/10_state.md R28). -/
def shiftModeOfPort (v : BitVec 2) : Option ShiftMode :=
  if v = 0 then some .none
  else if v = 1 then some .left
  else if v = 2 then some .right
  else none

/-- `SM` as its port value (spec/10_state.md R28). -/
def shiftModeToPort : ShiftMode → BitVec 2
  | .none => 0
  | .left => 1
  | .right => 2

end Sys2Proof.Machine
end

