-- ==== Sys2Proof/Machine/Ports.lean ====
section
/-! DEFINITION. The host ports that are no bus transaction: spec/40_glyph_store.md, spec/45_render_cursor.md,
spec/46_facade_host_ports.md, and construction (spec/70_reset_and_hazards.md R310). -/

namespace Sys2Proof.Machine

open Sys2Proof

/-- Construction is reset; an illegal construction is refused (spec/70_reset_and_hazards.md R310, spec/00_scope.md R11). -/
def State.construct (p : Config) : Host.Outcome State Fault Refusal :=
  if p.Legal then .next (State.initial p) else .refused .illegalConstruction

/-- `sendData`: the whole data write, the latch untouched (spec/46_facade_host_ports.md R260; log 27). -/
def sendData (v : Byte) (s : State) : State := writeData s v

/-- The visible columns, ascending (spec/20_memory.md R66). -/
def visibleColumns (s : State) : List Nat := List.range' s.ws (s.we + 1 - s.ws)

/-- The codes of one bank inside the window, left to right (spec/45_render_cursor.md R240; log 28). -/
def visibleCodes (s : State) (bank : Bank) : List Byte := (visibleColumns s).map (fun o => (s.cell bank o).code)

/-- `render`: hands the sink the two rows and changes nothing else (spec/45_render_cursor.md R240). -/
def render (s : State) : State :=
  { s with sink := s.sink ++ [{ row0 := visibleCodes s .bank0, row1 := visibleCodes s .bank1 }] }

/-- `updateCursor`, the document's procedure (spec/45_render_cursor.md R242; log 17). -/
def updateCursor (s : State) : State :=
  if s.c then
    let barred := memPut s s.ac (setCursorBar (memRead s s.ac))
    if barred.b then memPut barred barred.ac (toggleCursorBar (memRead barred barred.ac)) else barred
  else s

/-- `refresh`: `render`, then `updateCursor` (spec/46_facade_host_ports.md R261). -/
def refresh (s : State) : State := updateCursor (render s)

/-- `writeCustomGlyph` (spec/40_glyph_store.md R123, R124; log 19). -/
def writeCustomGlyph (slot : Nat) (bitmap : Bitmap) (s : State) : Host.Outcome State Fault Refusal :=
  if h : slot < 8 then .next { s with cgram := s.cgram.set slot bitmap }
  else
    match s.config.slotOor with
    | .failFast => raiseViolation (.customGlyphSlot slot)
    | .ignore => .next s

/-- A `Preset` is legal when `AC` is a valid address and `SM` one of its three values (spec/46_facade_host_ports.md
R265). -/
def presetLegal (p : Config) (f : PresetFields) : Bool :=
  f.ac.all (fun a => validAddr p a) && f.sm.all (fun v => (shiftModeOfPort v).isSome)

/-- `Preset`: each named register takes the given value, the others keep theirs (spec/46_facade_host_ports.md R265). -/
def preset (f : PresetFields) (s : State) : Host.Outcome State Fault Refusal :=
  if presetLegal s.config f then
    .next { s with
      ac := f.ac.getD s.ac
      em := (f.em.map entryModeOfPort).getD s.em
      sm := (f.sm.bind shiftModeOfPort).getD s.sm
      d := f.d.getD s.d
      c := f.c.getD s.c
      b := f.b.getD s.b }
  else raiseViolation (.preset f)

/-- The bank a `Query` selector names (spec/46_facade_host_ports.md R266). -/
def bankOfNat (b : Nat) : Option Bank :=
  match b with
  | 0 => some .bank0
  | 1 => some .bank1
  | _ => none

/-- Gives an answer to the host; nothing else changes. -/
def answer (r : Reply) (s : State) : State := { s with replies := s.replies ++ [r] }

/-- `QueryCell` (spec/46_facade_host_ports.md R266). -/
def queryCell (b o : Nat) (s : State) : Host.Outcome State Fault Refusal :=
  match bankOfNat b with
  | some bank =>
    if o < s.config.totalColumns then .next (answer (.cell (s.cell bank o).code (s.cell bank o).bmp) s)
    else raiseViolation (.queryCell b o)
  | none => raiseViolation (.queryCell b o)

/-- `QueryGlyph` (spec/46_facade_host_ports.md R266). -/
def queryGlyph (slot : Nat) (s : State) : Host.Outcome State Fault Refusal :=
  if h : slot < 8 then .next (answer (.glyph s.cgram[slot]) s)
  else raiseViolation (.queryGlyph slot)

/-- What `QueryRegs` answers: every register but `ENP` (spec/46_facade_host_ports.md R266). -/
def regsReply (s : State) : RegsReply where
  ac := s.ac
  em := entryModeToPort s.em
  sm := shiftModeToPort s.sm
  ws := s.ws
  we := s.we
  d := s.d
  c := s.c
  b := s.b
  rs := s.rs
  rw := s.rw

/-- `QueryRegs` (spec/46_facade_host_ports.md R266). -/
def queryRegs (s : State) : State := answer (.regs (regsReply s)) s

end Sys2Proof.Machine
end

