-- ==== Sys2Proof/Machine/Bus.lean ====
section
/-! DEFINITION. The control-line latch (spec/42_bus_latch.md) and the service of one host call
(spec/46_facade_host_ports.md R262). -/

namespace Sys2Proof.Machine

open Sys2Proof

/-- Step 1 of `handleBusEdge`: RS and RW are recorded (spec/42_bus_latch.md R161). -/
def recordLines (rs rw : Bool) (s : State) : State := { s with rs := rs, rw := rw }

/-- Step 4 of `handleBusEdge`: EN is stored as the previous EN of the next call (spec/42_bus_latch.md R165). -/
def storeEN (en : Bool) : Host.Outcome State Fault Refusal → Host.Outcome State Fault Refusal
  | .next s => .next { s with enp := en }
  | .fault f => .fault f
  | .refused r => .refused r

/-- A falling edge: previous EN = 1, current EN = 0 (spec/42_bus_latch.md R162). -/
def fallingEdge (s : State) (en : Bool) : Bool := s.enp && !en

/-- The instruction one transaction is, by the device's own opcodes (spec/30_encoding.md R91, R92). -/
def fetch (s : State) (rs rw : Bool) (db : Byte) : Instr := decodeWord s.config.opcodes (packWord rs rw db)

/-- `handleBusEdge` (spec/42_bus_latch.md R160): record RS and RW, run the transaction on a falling edge, store EN. -/
def handleBusEdge (rs rw en : Bool) (db : Byte) (s : State) : Host.Outcome State Fault Refusal :=
  let recorded := recordLines rs rw s
  storeEN en (if fallingEdge s en then exec (fetch recorded rs rw db) recorded else .next recorded)

/-- One host call, an atomic operation (spec/20_memory.md R75). -/
def serve (call : HostCall) (s : State) : Host.Outcome State Fault Refusal :=
  match call with
  | .edge rs rw en db => handleBusEdge rs rw en db s
  | .sendData v => .next (sendData v s)
  | .refresh => .next (refresh s)
  | .render => .next (render s)
  | .updateCursor => .next (updateCursor s)
  | .writeCustomGlyph slot bitmap => writeCustomGlyph slot bitmap s
  | .preset fields => preset fields s
  | .queryCell b o => queryCell b o s
  | .queryGlyph slot => queryGlyph slot s
  | .queryRegs => .next (queryRegs s)

/-- Takes the host's next call and serves it; with no call to serve nothing happens (spec/70_reset_and_hazards.md R324;
log 3). -/
def serveNext (s : State) : Host.Outcome State Fault Refusal :=
  match s.host with
  | [] => .next s
  | call :: rest => serve call { s with host := rest }

/-- The bus call whose falling edge presents a transaction word. -/
def edgeOfWord (t : TWord) : HostCall := .edge (wordRS t) (wordRW t) false (wordDB t)

/-- The host about to present a transaction word: EN has been seen high and its falling edge is the next call (log 8). -/
def presentWord (s : State) (t : TWord) : State := { s with enp := true, host := edgeOfWord t :: s.host }

end Sys2Proof.Machine
end

