-- ==== Sys2Proof/Machine/Step.lean ====
section
/-! DEFINITION. One step: one host call (log 3). -/

namespace Sys2Proof.Machine

open Sys2Proof

/-- One step of the machine: the host's next call, served whole (spec/20_memory.md R75). -/
def step (s : State) : Host.Outcome State Fault Refusal := serveNext s

/-- The state whose very next step runs the transaction whose bits are `w` (log 8). -/
def State.withFetchWord (s : State) (nbits w : Nat) : State := presentWord s (tableWord nbits w)

end Sys2Proof.Machine
end

