-- ==== Sys2Proof/Machine/Pseudo.lean ====
section
/-! DEFINITION. The program notation: each pseudo-instruction as the bus calls it stands for
(spec/30_encoding.md R100, R101). The host-port lines of R102 are the constructors of `HostCall`. -/

namespace Sys2Proof.Machine

open Sys2Proof

/-- EN high and then low with the same RS, RW and byte: one whole pulse, whose second call is the transaction. -/
def pulse (rs rw : Bool) (db : Byte) : List HostCall := [.edge rs rw true db, .edge rs rw false db]

/-- `CMD b` (spec/30_encoding.md R101). -/
def cmdCalls (db : Byte) : List HostCall := pulse false false db

/-- `DATA b` (spec/30_encoding.md R101). -/
def dataCalls (v : Byte) : List HostCall := pulse true false v

/-- `READ rs` (spec/30_encoding.md R101). -/
def readCalls (rs : Bool) : List HostCall := pulse rs true 0x00

/-- `CLR` (spec/30_encoding.md R101). -/
def clrCalls (p : Config) : List HostCall := cmdCalls p.opcodes.clear

/-- `SHL` (spec/30_encoding.md R101). -/
def shlCalls (p : Config) : List HostCall := cmdCalls p.opcodes.shiftLeft

/-- `SHR` (spec/30_encoding.md R101). -/
def shrCalls (p : Config) : List HostCall := cmdCalls p.opcodes.shiftRight

end Sys2Proof.Machine
end

