-- ==== Sys2Proof/Safety.lean ====
section
/-! DEFINITION. What counts as a safe state and a safe run, and the words the statements use for runs. -/

namespace Sys2Proof.Machine

open Sys2Proof

/-- I1 to I3: the window lies inside the columns and has its fixed width (spec/10_state.md R46). -/
abbrev State.WindowOk (s : State) : Prop :=
  s.we ≤ s.config.totalColumns - 1 ∧ s.we + 1 = s.ws + s.config.visibleColumns

/-- I4: the address counter is a valid address (spec/10_state.md R46). -/
abbrev State.AcOk (s : State) : Prop := validAddr s.config s.ac

/-- The address counter fits its width (spec/10_state.md R20, R26; log 2). -/
abbrev State.AcFits (s : State) : Prop := s.ac < s.config.acMod

/-- DDRAM is in its canonical form and lists only cells that exist (spec/20_memory.md R61; log 4). -/
abbrev State.MemoryOk (s : State) : Prop := s.ddram.wf ∧ s.ddram.mapped s.config

/-- What every step of a legal construction keeps under either `DEC_UNDERFLOW`. -/
abbrev State.Inv (s : State) : Prop := s.config.Legal ∧ s.WindowOk ∧ s.AcFits ∧ s.MemoryOk

/-- A cell whose code resolves through CGROM holds that glyph: rows 0 to 6 exactly, row 7 exactly or as the cursor
overlay leaves it (spec/10_state.md R23; CGROM never changes, so the glyph at the time of writing is the glyph now). -/
def cellHoldsRomGlyph (s : State) (x : Cell) : Prop :=
  8 ≤ x.code.toNat →
    (∀ r, (h : r < 7) → x.bmp[r] = (resolve s x.code)[r]) ∧
      (x.bmp[7] = (resolve s x.code)[7] ∨ x.bmp[7] = fullRow ∨ x.bmp[7] = 0)

/-- Every cell of DDRAM holds the glyph of its CGROM code, but for the cursor row (spec/10_state.md R23). -/
def State.RomGlyphsOk (s : State) : Prop := ∀ a, cellHoldsRomGlyph s (s.ddram.read a)

/-- `k` steps, stopping at the first fault or refusal. -/
def runSteps : Nat → State → Host.Outcome State Fault Refusal
  | 0, s => .next s
  | k + 1, s =>
    match step s with
    | .next t => runSteps k t
    | .fault f => .fault f
    | .refused r => .refused r

/-- The state with exactly these calls left for the host to make. -/
def State.withCalls (s : State) (calls : List HostCall) : State := { s with host := calls }

/-- A whole run over a list of calls: one step per call (spec/20_memory.md R75, spec/70_reset_and_hazards.md R324). -/
def runCalls (calls : List HostCall) (s : State) : Host.Outcome State Fault Refusal :=
  runSteps calls.length (s.withCalls calls)

/-- `n` executions of one instruction, stopping at the first fault or refusal. -/
def execTimes : Nat → Instr → State → Host.Outcome State Fault Refusal
  | 0, _, s => .next s
  | n + 1, i, s =>
    match exec i s with
    | .next t => execTimes n i t
    | .fault f => .fault f
    | .refused r => .refused r

/-- `dispatch`, the document's procedure on states (spec/43_instructions.md R180), beside the decoder that `exec`'s
instructions come from. -/
def dispatchProcedure (db : Byte) (s : State) : State :=
  if db = s.config.opcodes.shiftRight then shiftRight s
  else if db = s.config.opcodes.shiftLeft then shiftLeft s
  else if db = s.config.opcodes.clear then clearDisplay s
  else s

/-- `handleBusEdge`, the document's procedure on states, step by step (spec/42_bus_latch.md R160). -/
def busProcedure (rs rw en : Bool) (db : Byte) (s : State) : State :=
  let recorded := { s with rs := rs, rw := rw }
  let falling := s.enp = true ∧ en = false
  let done :=
    if falling ∧ rw = false then
      if rs = false then dispatchProcedure db recorded else writeData recorded db
    else recorded
  { done with enp := en }

/-- How many falling edges a sequence of EN values makes after a call whose EN was `prev` (spec/42_bus_latch.md R162). -/
def countFalling : Bool → List Bool → Nat
  | _, [] => 0
  | prev, en :: ens => (if prev && !en then 1 else 0) + countFalling en ens

/-- The EN value of the last call, or `prev` when there was none. -/
def lastEN : Bool → List Bool → Bool
  | prev, [] => prev
  | _, en :: ens => lastEN en ens

/-- `n` data writes of the same code. -/
def writeTimes : Nat → Byte → State → State
  | 0, _, s => s
  | n + 1, v, s => writeTimes n v (writeData s v)

/-- The state with another latch. -/
def State.withLatch (s : State) (rs rw enp : Bool) : State := { s with rs := rs, rw := rw, enp := enp }

/-- The position of an address in the cycle of all cells: bank 0 ascending, then bank 1 ascending
(spec/44_data_write.md R225). -/
def cyclePos (p : Config) (a : Nat) : Nat :=
  match decodeAddr p a with
  | (.bank0, o) => o
  | (.bank1, o) => p.totalColumns + o

/-- The cell at a position of the cycle (spec/44_data_write.md R225). -/
def cellAtPos (p : Config) (k : Nat) : Bank × Nat :=
  if k < p.totalColumns then (.bank0, k) else (.bank1, k - p.totalColumns)

end Sys2Proof.Machine
end

