-- ==== Sys2Proof/Certificates/Slice0/Obligations.lean ====
section
/-! DEFINITION. The statements for the provers, in the order of spec/'s files: encoding, bus latch, window, clear display,
data write and address counter, glyph store, cells, render and cursor, host ports, reset, invariants, writers. -/

open Sys2Proof Sys2Proof.Machine

/-! ### Encoding: spec/30_encoding.md -/

/-- Decode and encode agree for every well-formed instruction at every value of its operands, read as a word (R91 to
R94) and read from bytes (the byte layout is the model's own, log 7). -/
def Obligations.DecodeOfEncodeIsTheInstruction : Prop :=
  ∀ o : Opcodes, o.Distinct → ∀ i : Instr, i.wellFormed o = true →
    decodeWord o (encode o i) = i ∧
      ∀ rest : List Byte, decodeBytes o (wordBytes (encode o i) ++ rest) = .ok (i, rest)

/-- Every one of the 1024 words is a well-formed instruction, and no bit of it is dropped (R97), whatever the opcodes. -/
def Obligations.EveryWordIsExactlyOneInstruction : Prop :=
  ∀ (o : Opcodes) (t : TWord), (decodeWord o t).wellFormed o = true ∧ encode o (decodeWord o t) = t

/-- R92: what each range of `T` does, the effect included: the low range is an instruction, 0x200 to 0x2FF a data
write, and the two ranges with RW = 1 the read stub, whatever RS and DB are. -/
def Obligations.FirstLevelDecodeTestsRwFirst : Prop :=
  ∀ (s : State) (t : TWord),
    (wordDB t).toNat = t.toNat % 256 ∧
    (t.toNat ≤ 0x0FF → exec (decodeWord s.config.opcodes t) s = .next (dispatchProcedure (wordDB t) s)) ∧
    (0x200 ≤ t.toNat → t.toNat ≤ 0x2FF →
      exec (decodeWord s.config.opcodes t) s = .next (writeData s (wordDB t))) ∧
    (0x100 ≤ t.toNat → t.toNat ≤ 0x1FF → exec (decodeWord s.config.opcodes t) s = .next s) ∧
    (0x300 ≤ t.toNat → t.toNat ≤ 0x3FF → exec (decodeWord s.config.opcodes t) s = .next s)

/-- R95 (decision D5, log 5): a byte is an instruction exactly when all its eight bits equal the parameter; with the
default opcodes the shifts' neighbours and 0x00 are `NOP`. -/
def Obligations.DispatchMatchesAllEightBits : Prop :=
  (∀ o : Opcodes, o.Distinct → ∀ db : Byte,
    (decodeByte o db = .shr ↔ db = o.shiftRight) ∧
    (decodeByte o db = .shl ↔ db = o.shiftLeft) ∧
    (decodeByte o db = .clr ↔ db = o.clear) ∧
    (decodeByte o db = .nop db ↔ db ≠ o.shiftRight ∧ db ≠ o.shiftLeft ∧ db ≠ o.clear)) ∧
  ∀ db ∈ ([0x00, 0x19, 0x1A, 0x1B, 0x1D, 0x1E, 0x1F] : List Byte), decodeByte Opcodes.default db = .nop db

/-- Words written out from spec/95_test_vectors.md V-T1 to V-T14 decode to the instructions they stand for (default
opcodes, log 5). -/
def Obligations.WrittenWordsDecode : Prop :=
  decodeTableWord 16 0x001 = some .clr ∧
  decodeTableWord 16 0x018 = some .shl ∧
  decodeTableWord 16 0x01C = some .shr ∧
  decodeTableWord 16 0x000 = some (.nop 0x00) ∧
  decodeTableWord 16 0x019 = some (.nop 0x19) ∧
  decodeTableWord 16 0x0FF = some (.nop 0xFF) ∧
  decodeTableWord 16 0x241 = some (.data 0x41) ∧
  decodeTableWord 16 0x201 = some (.data 0x01) ∧
  decodeTableWord 16 0x2FF = some (.data 0xFF) ∧
  decodeTableWord 16 0x101 = some (.read false 0x01) ∧
  decodeTableWord 16 0x341 = some (.read true 0x41)

/-- The model's own byte layout (log 7), with the default opcodes (log 5): ten bits of the table's word are the
transaction word, any bit above them is rejected, and every malformed list of bytes is rejected by name. -/
def Obligations.TableWordIsTheTransactionWord : Prop :=
  (∀ nbits w : Nat, 10 ≤ nbits → w < 1024 →
    decodeTableWord nbits w = some (decodeWord Opcodes.default (BitVec.ofNat 10 w))) ∧
  (∀ w : Nat, 1024 ≤ w → w < 65536 → decodeTableWord 16 w = none) ∧
  ∀ (o : Opcodes) (lo hi : Byte) (rest : List Byte),
    decodeBytes o [] = .error .tooShort ∧
    decodeBytes o [lo] = .error .tooShort ∧
    (4 ≤ hi.toNat → decodeBytes o (lo :: hi :: rest) = .error (.noSuchLine hi))

/-! ### The bus latch: spec/42_bus_latch.md -/

/-- A step whose next call is a falling edge runs the decoded instruction, RS and RW recorded before it and EN stored
after it. -/
def Obligations.StepRunsTheDecodedInstruction : Prop :=
  ∀ (s : State) (rs rw : Bool) (db : Byte) (rest : List HostCall) (i : Instr),
    s.host = .edge rs rw false db :: rest → s.enp = true →
    decodeWord s.config.opcodes (packWord rs rw db) = i →
    ∃ t, exec i { s with host := rest, rs := rs, rw := rw } = .next t ∧ step s = .next { t with enp := false }

/-- `withFetchWord` makes the very next step run exactly the instruction the table's word decodes to (the model's own
convention, log 8; the table's words are read with the default opcodes, log 5). -/
def Obligations.FetchWordRunsTheTableInstruction : Prop :=
  ∀ (s : State) (nbits w : Nat) (i : Instr), s.config.opcodes = Opcodes.default →
    decodeTableWord nbits w = some i →
    ∃ t, exec i { s with
          enp := true, rs := wordRS (tableWord nbits w), rw := wordRW (tableWord nbits w) } = .next t ∧
      step (s.withFetchWord nbits w) = .next { t with enp := false }

/-- R160: a bus call is the document's four-step procedure, for any input, and answers a next state. -/
def Obligations.BusCallIsTheDocumentsProcedure : Prop :=
  ∀ (s : State) (rs rw en : Bool) (db : Byte) (rest : List HostCall),
    s.host = .edge rs rw en db :: rest →
    step s = .next (busProcedure rs rw en db { s with host := rest })

/-- R161, R165: every bus call ends with RS, RW and ENP holding its inputs, and one that is no falling edge changes
nothing else. -/
def Obligations.EveryBusCallRecordsItsLines : Prop :=
  ∀ (s : State) (rs rw en : Bool) (db : Byte) (rest : List HostCall),
    s.host = .edge rs rw en db :: rest →
    ∃ t, step s = .next t ∧ t.rs = rs ∧ t.rw = rw ∧ t.enp = en ∧
      (¬ (s.enp = true ∧ en = false) → t = { s with host := rest, rs := rs, rw := rw, enp := en })

/-- R169 (derived there): a sequence of bus calls that differ in EN alone makes one data write per falling edge and no
other change but the latch. -/
def Obligations.PulsesWriteOncePerFallingEdge : Prop :=
  ∀ (s : State) (v : Byte) (ens : List Bool), ens ≠ [] →
    runCalls (ens.map (fun en => .edge true false en v)) s =
      .next ((writeTimes (countFalling s.enp ens) v (s.withCalls [])).withLatch true false (lastEN s.enp ens))

/-! ### The window: spec/43_instructions.md -/

/-- R182: `SHR`'s encoding, its whole effect (nothing but WS and WE changes; at WS = 0 nothing does), and the rule's
example. -/
def Obligations.ShrMovesTheWindowDown : Prop :=
  (∀ o : Opcodes, (encode o .shr).toNat = 0x000 + o.shiftRight.toNat) ∧
  (∀ s : State, exec .shr s =
    .next { s with
      ws := if s.ws > 0 then s.ws - 1 else s.ws
      we := if s.ws > 0 then s.we - 1 else s.we }) ∧
  execTimes 1 .shr State.reset = .next { State.reset with ws := 11, we := 26 } ∧
  execTimes 12 .shr State.reset = .next { State.reset with ws := 0, we := 15 } ∧
  execTimes 13 .shr State.reset = .next { State.reset with ws := 0, we := 15 }

/-- R183: `SHL`'s encoding, its whole effect (nothing but WS and WE changes; at WE = TOTAL_COLUMNS - 1 nothing does),
and the rule's example. -/
def Obligations.ShlMovesTheWindowUp : Prop :=
  (∀ o : Opcodes, (encode o .shl).toNat = 0x000 + o.shiftLeft.toNat) ∧
  (∀ s : State, exec .shl s =
    .next { s with
      ws := if s.we < s.config.totalColumns - 1 then s.ws + 1 else s.ws
      we := if s.we < s.config.totalColumns - 1 then s.we + 1 else s.we }) ∧
  execTimes 1 .shl State.reset = .next { State.reset with ws := 13, we := 28 } ∧
  execTimes 12 .shl State.reset = .next { State.reset with ws := 24, we := 39 } ∧
  execTimes 13 .shl State.reset = .next { State.reset with ws := 24, we := 39 }

/-- R188 (derived there): any number of shifts saturates; `SHL` then `SHR` restores the window unless the `SHL` was
clamped. -/
def Obligations.WindowShiftsSaturate : Prop :=
  ∀ s : State, s.config.Legal → s.WindowOk →
    (∀ n : Nat, execTimes n .shr s =
      .next { s with ws := s.ws - n, we := s.ws - n + s.config.visibleColumns - 1 }) ∧
    (∀ n : Nat, execTimes n .shl s =
      .next { s with
        ws := min (s.config.totalColumns - s.config.visibleColumns) (s.ws + n)
        we := min (s.config.totalColumns - s.config.visibleColumns) (s.ws + n) + s.config.visibleColumns - 1 }) ∧
    ∃ t u, exec .shl s = .next t ∧ exec .shr t = .next u ∧
      u.ws = if s.ws < s.config.totalColumns - s.config.visibleColumns then s.ws else s.ws - 1

/-! ### Clear display: spec/43_instructions.md -/

/-- R181, R189: `CLR` gives every cell of both banks code 0 and the current glyph of code 0, sets AC to the default
window-start address, and changes nothing else: not the window, the modes, CGRAM, the latch, nor DDRAM outside the
cells. What it leaves alone is the spec's decision D22 (log 18), and that AC becomes the constant address its decision D10
(log 12). -/
def Obligations.ClrClearsEveryCell : Prop :=
  ∀ s : State, ∃ t, exec .clr s = .next t ∧
    t = { s with ddram := t.ddram, ac := s.config.bank0Base + s.config.wsDefault } ∧
    (∀ (k : Bank) (o : Nat), o < s.config.totalColumns → t.cell k o = { code := 0, bmp := s.cgram[0] }) ∧
    ∀ a : Nat, (∀ (k : Bank) (o : Nat), o < s.config.totalColumns → a ≠ encodeAddr s.config k o) →
      t.ddram.read a = s.ddram.read a

/-- With an all-zero glyph 0, `CLR` leaves DDRAM exactly as construction made it (spec/70_reset_and_hazards.md R312). The
list form is the model's choice (log 4); what `CLR` leaves alone is the spec's decision D22 (log 18), and that AC becomes
the constant default its decision D10 (log 12). -/
def Obligations.ClrRestoresTheBlankMemory : Prop :=
  ∀ s : State, s.config.Legal → s.MemoryOk → s.cgram[0] = Bitmap.zero →
    exec .clr s = .next { s with ddram := [], ac := s.config.acDefault }

/-- R185: a byte that is none of the three opcodes changes nothing; the enclosing bus call still records RS, RW and EN;
whatever the three opcodes are, 253 bytes are `NOP`. -/
def Obligations.NopChangesNothing : Prop :=
  (∀ (byte : Byte) (s : State), exec (.nop byte) s = .next s) ∧
  (∀ (s : State) (db : Byte) (rest : List HostCall),
    db ≠ s.config.opcodes.clear → db ≠ s.config.opcodes.shiftLeft → db ≠ s.config.opcodes.shiftRight →
    s.host = .edge false false false db :: rest →
    step s = .next { s with host := rest, rs := false, rw := false, enp := false }) ∧
  ∀ o : Opcodes, o.Distinct →
    ((List.finRange 256).filter (fun n => decodeByte o (BitVec.ofFin n) = .nop (BitVec.ofFin n))).length = 253

/-- R166, R73: a bus read changes nothing beyond the latch, for either RS and any byte; no value is returned (log 20). -/
def Obligations.ReadStubChangesOnlyTheLatch : Prop :=
  (∀ (rs : Bool) (db : Byte) (s : State), exec (.read rs db) s = .next s) ∧
  ∀ (s : State) (rs en : Bool) (db : Byte) (rest : List HostCall),
    s.host = .edge rs true en db :: rest →
    step s = .next { s with host := rest, rs := rs, rw := true, enp := en }

/-! ### Data write and the address counter: spec/44_data_write.md, spec/20_memory.md -/

/-- R210, R212, R213, R219: the data write completes in every state; it stores the code and its glyph in the cell at
`decode(AC)` and nowhere else, shifts the window by `SM`, advances AC by the engine, and changes nothing else. Which way
`SM` moves the window is the spec's decision D12 (log 14); `nextAC` carries its decisions D14 to D16 (log 15, log 16). -/
def Obligations.DataWriteStoresOneCell : Prop :=
  (∀ (o : Opcodes) (v : Byte), (encode o (.data v)).toNat = 0x200 + v.toNat) ∧
  ∀ (s : State) (v : Byte), ∃ t, exec (.data v) s = .next t ∧
    t.cell (decodeAddr s.config s.ac).1 (decodeAddr s.config s.ac).2 = { code := v, bmp := resolve s v } ∧
    (∀ a : Nat, a ≠ encodeAddr s.config (decodeAddr s.config s.ac).1 (decodeAddr s.config s.ac).2 →
      t.ddram.read a = s.ddram.read a) ∧
    (s.sm = .none → t.ws = s.ws ∧ t.we = s.we) ∧
    (s.sm = .right → t.ws = (shiftRight s).ws ∧ t.we = (shiftRight s).we) ∧
    (s.sm = .left → t.ws = (shiftLeft s).ws ∧ t.we = (shiftLeft s).we) ∧
    t.ac = nextAC s.config s.em s.ac ∧
    t = { s with ddram := t.ddram, ws := t.ws, we := t.we, ac := t.ac }

/-- R64, R281, R242, R243: what `decode` answers for any address, and that a data write and a cursor overlay at an address
outside both banks go to bank 0, offset 0 and to no other cell, and that nothing is recorded of it. Row 7 by `B` follows
the procedure over the gloss, the spec's decision D23 (log 17). -/
def Obligations.InvalidAddressReachesTheFirstCell : Prop :=
  (∀ (p : Config) (a : Nat),
    (p.bank0Base ≤ a ∧ a ≤ p.bank0End → decodeAddr p a = (.bank0, a - p.bank0Base)) ∧
    (¬ (p.bank0Base ≤ a ∧ a ≤ p.bank0End) → p.bank1Base ≤ a ∧ a ≤ p.bank1End →
      decodeAddr p a = (.bank1, a - p.bank1Base)) ∧
    (¬ validAddr p a → decodeAddr p a = (.bank0, 0))) ∧
  ∀ s : State, ¬ s.AcOk →
    (∀ v : Byte, ∃ t, exec (.data v) s = .next t ∧ t.cell .bank0 0 = { code := v, bmp := resolve s v } ∧
      t = { s with ddram := t.ddram, ws := t.ws, we := t.we, ac := t.ac } ∧
      ∀ a : Nat, a ≠ s.config.bank0Base → t.ddram.read a = s.ddram.read a) ∧
    ∀ rest : List HostCall, s.c = true → s.host = .updateCursor :: rest →
      ∃ t, step s = .next t ∧
        t.cell .bank0 0 = { s.cell .bank0 0 with
          bmp := (s.cell .bank0 0).bmp.set 7 (if s.b then 0b00000 else 0b11111) } ∧
        t = { s with host := rest, ddram := t.ddram } ∧
        ∀ a : Nat, a ≠ s.config.bank0Base → t.ddram.read a = s.ddram.read a

/-- R65 (derived there): `decode` and `encode` are inverse on cells and on valid addresses, and an invalid address
encodes back to bank 0's base. -/
def Obligations.AddressMapRoundTrips : Prop :=
  ∀ p : Config, p.Legal →
    (∀ (k : Bank) (o : Nat), o < p.totalColumns → decodeAddr p (encodeAddr p k o) = (k, o)) ∧
    (∀ a : Nat, validAddr p a → encodeAddr p (decodeAddr p a).1 (decodeAddr p a).2 = a) ∧
    (∀ a : Nat, ¬ validAddr p a → encodeAddr p (decodeAddr p a).1 (decodeAddr p a).2 = p.bank0Base) ∧
    ∀ a : Nat, (decodeAddr p a).2 < p.totalColumns

/-- R215: with `EM = Increment`, the end of bank 0 jumps to the start of bank 1 and the end of bank 1 wraps to the start
of bank 0. -/
def Obligations.IncrementWrapsAtTheBankEnds : Prop :=
  ∀ (s : State) (v : Byte), s.config.Legal → s.em = .increment → ∃ t, exec (.data v) s = .next t ∧
    (s.ac = s.config.bank0End → t.ac = s.config.bank1Base) ∧
    (s.ac = s.config.bank1End → t.ac = s.config.bank0Base)

/-- R216, R217 (decisions D14, D15, log 15): with `EM = Decrement`, the start of bank 1 goes to the end of bank 0, and
the start of bank 0 goes to the end of bank 1 or, under `free_run`, one below it modulo AC_MOD. -/
def Obligations.DecrementWrapsAtTheBankStarts : Prop :=
  ∀ (s : State) (v : Byte), s.config.Legal → s.em = .decrement → ∃ t, exec (.data v) s = .next t ∧
    (s.ac = s.config.bank1Base → t.ac = s.config.bank0End) ∧
    (s.ac = s.config.bank0Base → s.config.decUnderflow = .wrapToBank1End → t.ac = s.config.bank1End) ∧
    (s.ac = s.config.bank0Base → s.config.decUnderflow = .freeRun →
      t.ac = (s.ac + s.config.acMod - 1) % s.config.acMod)

/-- R214: inside a bank the step is exactly one address per write, whatever `SM` is and whether or not the window
moved. -/
def Obligations.AddressCounterStepsByOne : Prop :=
  ∀ (s : State) (v : Byte), s.config.Legal → s.AcOk → ∃ t, exec (.data v) s = .next t ∧
    (s.em = .increment → s.ac ≠ s.config.bank0End → s.ac ≠ s.config.bank1End → t.ac = s.ac + 1) ∧
    (s.em = .decrement → s.ac ≠ s.config.bank0Base → s.ac ≠ s.config.bank1Base → t.ac + 1 = s.ac)

/-- R218 (decision D16, log 16): from an invalid address the step is one modulo AC_MOD with no relocation. -/
def Obligations.InvalidAddressStepsModulo : Prop :=
  ∀ (s : State) (v : Byte), s.config.Legal → ¬ s.AcOk → ∃ t, exec (.data v) s = .next t ∧
    (s.em = .increment → t.ac = (s.ac + 1) % s.config.acMod) ∧
    (s.em = .decrement → t.ac = (s.ac + s.config.acMod - 1) % s.config.acMod)

/-- R219 (derived there; log 15): on valid addresses and under the default policy the engine stays valid and its two
directions are inverse. -/
def Obligations.AddressEngineIsAPermutation : Prop :=
  ∀ p : Config, p.Legal → p.decUnderflow = .wrapToBank1End → ∀ a : Nat, validAddr p a →
    (∀ em : EntryMode, validAddr p (nextAC p em a)) ∧
    nextAC p .decrement (nextAC p .increment a) = a ∧
    nextAC p .increment (nextAC p .decrement a) = a

/-- R225 (derived there; log 15): any sequence of data transactions moves AC along the cycle of all cells, forward or
backward by their number, modulo twice the columns. -/
def Obligations.WritesAdvanceAlongTheCycle : Prop :=
  ∀ (s : State) (vs : List Byte), s.config.Legal → s.AcOk →
    ∃ t, runCalls (vs.flatMap dataCalls) s = .next t ∧
      (s.em = .increment → validAddr t.config t.ac ∧
        cyclePos t.config t.ac = (cyclePos s.config s.ac + vs.length) % (2 * s.config.totalColumns)) ∧
      (s.em = .decrement → s.config.decUnderflow = .wrapToBank1End → validAddr t.config t.ac ∧
        (cyclePos t.config t.ac + vs.length) % (2 * s.config.totalColumns) = cyclePos s.config s.ac)

/-- R220 (derived there; 90_conflicts.md C1): data transactions from the start of bank 0 with `EM = Increment` fill bank
0 and then bank 1 in ascending order, whatever `SM`; the cells not yet reached keep their contents; after twice the
columns AC is back at the start. -/
def Obligations.WritesVisitEveryCellInOrder : Prop :=
  ∀ (s : State) (vs : List Byte), s.config.Legal → s.em = .increment → s.ac = s.config.bank0Base →
    vs.length ≤ 2 * s.config.totalColumns →
    ∃ t, runCalls (vs.flatMap dataCalls) s = .next t ∧
      (∀ (k : Nat) (h : k < vs.length),
        t.cell (cellAtPos s.config k).1 (cellAtPos s.config k).2 = { code := vs[k], bmp := resolve s vs[k] }) ∧
      (∀ k : Nat, vs.length ≤ k → k < 2 * s.config.totalColumns →
        t.cell (cellAtPos s.config k).1 (cellAtPos s.config k).2 =
          s.cell (cellAtPos s.config k).1 (cellAtPos s.config k).2) ∧
      (vs.length = s.config.totalColumns → t.ac = s.config.bank1Base) ∧
      (vs.length = 2 * s.config.totalColumns → t.ac = s.config.bank0Base)

/-! ### Glyph store: spec/40_glyph_store.md -/

/-- R120, R121: codes 0 to 7 resolve through CGRAM whatever CGROM holds, the others through CGROM, and a code with no
entry is the all-zero bitmap. -/
def Obligations.ResolveChoosesTheGlyphMemory : Prop :=
  ∀ (s : State) (code : Byte),
    (∀ h : code.toNat < 8, ∀ rom : List (Byte × Bitmap),
      resolve { s with config := { s.config with cgrom := rom } } code = s.cgram[code.toNat]) ∧
    (8 ≤ code.toNat → ∀ g : Bitmap, romGlyph s.config.cgrom code = some g → resolve s code = g) ∧
    (8 ≤ code.toNat → romGlyph s.config.cgrom code = none → resolve s code = Vector.replicate 8 0) ∧
    resolve State.reset 65 = #v[0, 0, 0, 0, 0, 0, 0, 0]

/-- R125: after a custom-glyph write the slot's code resolves to the new bitmap at once, every other code as before, and
nothing but that slot changes: no cell, no register, not the latch. -/
def Obligations.CustomGlyphWriteIsVisibleAtOnce : Prop :=
  (∀ (s : State) (code : Byte) (h : code.toNat < 8), resolve s code = s.cgram[code.toNat]) ∧
  ∀ (s : State) (slot : Nat) (g : Bitmap) (rest : List HostCall), slot < 8 →
    s.host = .writeCustomGlyph slot g :: rest →
    ∃ t, step s = .next t ∧ t = { s with host := rest, cgram := t.cgram } ∧
      (∀ (n : Nat) (h : n < 8), t.cgram[n] = if n = slot then g else s.cgram[n]) ∧
      ∀ code : Byte, resolve t code = if code.toNat = slot then g else resolve s code

/-- R124 (decision D17, log 19): a slot above 7 is the host's fault under `fail_fast`, and a call that changes nothing
under `ignore`; it is never reduced modulo 8. -/
def Obligations.OutOfRangeSlotIsTheHostsFault : Prop :=
  ∀ (s : State) (slot : Nat) (g : Bitmap) (rest : List HostCall), 8 ≤ slot →
    s.host = .writeCustomGlyph slot g :: rest →
    (s.config.slotOor = .failFast → step s = .fault (.contractViolation (.customGlyphSlot slot))) ∧
    (s.config.slotOor = .ignore → step s = .next { s with host := rest })

/-- R122: (a) a custom-glyph write changes no cell; (b) a cursor overlay changes neither CGRAM nor CGROM; (c) two cells
with one code can hold different bitmaps. -/
def Obligations.GlyphsAreCopiedIntoCells : Prop :=
  (∀ (s : State) (slot : Nat) (g : Bitmap) (rest : List HostCall) (t : State),
    s.host = .writeCustomGlyph slot g :: rest → step s = .next t → t.ddram = s.ddram) ∧
  (∀ (s : State) (rest : List HostCall), s.host = .updateCursor :: rest →
    ∃ t, step s = .next t ∧ t.cgram = s.cgram ∧ t.config.cgrom = s.config.cgrom) ∧
  ∃ (calls : List HostCall) (t : State) (o o' : Nat), runCalls calls State.reset = .next t ∧
    (t.cell .bank0 o).code = (t.cell .bank0 o').code ∧ (t.cell .bank0 o).bmp ≠ (t.cell .bank0 o').bmp

/-! ### Cells: spec/41_cell.md -/

/-- R140: `setChar` on the cell at an address replaces its code and its whole bitmap, touches nothing else, and is
idempotent while the store is the same. -/
def Obligations.SetCharReplacesTheWholeCell : Prop :=
  ∀ (s : State) (a : Nat) (code : Byte),
    memRead (memWrite s a code) a = { code := code, bmp := resolve s code } ∧
    (∀ a' : Nat, a' ≠ cellAddr s.config a → (memWrite s a code).ddram.read a' = s.ddram.read a') ∧
    memWrite s a code = { s with ddram := (memWrite s a code).ddram } ∧
    memWrite (memWrite s a code) a code = memWrite s a code

/-- R141, R142: `setCursorBar` lights row 7 and is idempotent; `toggleCursorBar` inverts row 7, an even number of times
restores it and an odd number of times inverts it; rows 0 to 6 and the code are untouched. -/
def Obligations.CursorBarPrimitives : Prop :=
  ∀ x : Cell,
    (setCursorBar x).bmp[7] = 0b11111 ∧
    (∀ r : Nat, (h : r < 7) → (setCursorBar x).bmp[r] = x.bmp[r]) ∧
    (setCursorBar x).code = x.code ∧
    setCursorBar (setCursorBar x) = setCursorBar x ∧
    (toggleCursorBar x).bmp[7] = x.bmp[7] ^^^ 0b11111 ∧
    (∀ r : Nat, (h : r < 7) → (toggleCursorBar x).bmp[r] = x.bmp[r]) ∧
    (toggleCursorBar x).code = x.code ∧
    ∀ n : Nat, toggleCursorBar^[n] x = if n % 2 = 0 then x else toggleCursorBar x

/-! ### Render and cursor: spec/45_render_cursor.md -/

/-- R240 (decision D21, log 28): `render` hands the sink VISIBLE_COLUMNS codes of each bank, column WS first, and
changes nothing else. -/
def Obligations.RenderHandsOverTheWindow : Prop :=
  ∀ (s : State) (rest : List HostCall), s.WindowOk → s.host = .render :: rest →
    ∃ f : Frame, step s = .next { s with host := rest, sink := s.sink ++ [f] } ∧
      f.row0.length = s.config.visibleColumns ∧ f.row1.length = s.config.visibleColumns ∧
      ∀ n : Nat, n < s.config.visibleColumns →
        f.row0[n]? = some (s.cell .bank0 (s.ws + n)).code ∧ f.row1[n]? = some (s.cell .bank1 (s.ws + n)).code

/-- R241, R33: what the sink receives depends on the window and the codes inside it alone: not on a bitmap, on D, C or
B, on AC, EM or SM, nor on a cell outside the window. That D has no effect is the spec's decision D26 (log 26), and that
the window is compared with columns, in both banks, its decision D21 (log 28). -/
def Obligations.RenderReadsCodesOnly : Prop :=
  ∀ (s t : State) (rest rest' : List HostCall), s.host = .render :: rest → t.host = .render :: rest' →
    s.ws = t.ws → s.we = t.we →
    (∀ (k : Bank) (o : Nat), s.ws ≤ o → o ≤ s.we → (s.cell k o).code = (t.cell k o).code) →
    ∃ s' t' f, step s = .next s' ∧ step t = .next t' ∧ s'.sink = s.sink ++ [f] ∧ t'.sink = t.sink ++ [f]

/-- R242: with `C = 0` nothing changes; with `C = 1` row 7 of the cell at `decode(AC)` is set, and inverted after that
when `B = 1`; no other row, no code, no other cell and no other state changes. -/
def Obligations.UpdateCursorWritesRowSeven : Prop :=
  ∀ (s : State) (rest : List HostCall), s.host = .updateCursor :: rest →
    (s.c = false → step s = .next { s with host := rest }) ∧
    (s.c = true → ∃ t, step s = .next t ∧ t = { s with host := rest, ddram := t.ddram } ∧
      t.cell (decodeAddr s.config s.ac).1 (decodeAddr s.config s.ac).2 =
        (if s.b = true then toggleCursorBar (setCursorBar (memRead s s.ac)) else setCursorBar (memRead s s.ac)) ∧
      ∀ a : Nat, a ≠ encodeAddr s.config (decodeAddr s.config s.ac).1 (decodeAddr s.config s.ac).2 →
        t.ddram.read a = s.ddram.read a)

/-- R243, R244 (derived there; the procedure over the gloss, decision D23, log 17): a second call changes nothing the
first did not; with blink on, row 7 comes back to its pre-call value exactly when that value was zero. -/
def Obligations.UpdateCursorTwiceIsOnce : Prop :=
  ∀ (s : State) (rest : List HostCall), s.host = .updateCursor :: .updateCursor :: rest →
    ∃ t u, step s = .next t ∧ step t = .next u ∧ u = { t with host := rest } ∧
      (s.c = true → s.b = true →
        (memRead u u.ac).bmp[7] = 0b00000 ∧
        ((memRead u u.ac).bmp[7] = (memRead s s.ac).bmp[7] ↔ (memRead s s.ac).bmp[7] = 0b00000))

/-! ### Host ports: spec/46_facade_host_ports.md -/

/-- R260 (decision D18, log 27): `sendData` has the same effect on all state but the latch as the data transaction, and
leaves the latch as the last bus call left it. -/
def Obligations.SendDataIsDataWithoutTheLatch : Prop :=
  ∀ (s : State) (v : Byte), ∃ t, runCalls [.sendData v] s = .next t ∧
    t.rs = s.rs ∧ t.rw = s.rw ∧ t.enp = s.enp ∧
    runCalls (dataCalls v) s = .next (t.withLatch true false false)

/-- R323 (derived there): `sendData` between the two calls of a pulse does not cancel it: both writes happen, the
`sendData` one first. That `sendData` is the whole data write is the spec's decision D18 (log 27). -/
def Obligations.SendDataInsideAPulseKeepsBothWrites : Prop :=
  ∀ (s : State) (u v : Byte),
    runCalls [.edge true false true v, .sendData u, .edge true false false v] s =
      .next ((writeData (writeData (s.withCalls []) u) v).withLatch true false false)

/-- R261: `refresh` is `render` and then `updateCursor`, in one step; the codes handed over are those before the
overlay, in the order of the spec's decision D21 (log 28). -/
def Obligations.RefreshIsRenderThenUpdateCursor : Prop :=
  ∀ (s : State) (rest : List HostCall), s.host = .refresh :: rest →
    ∃ t, step s = .next t ∧ runSteps 2 { s with host := .render :: .updateCursor :: rest } = .next t ∧
      t.sink = s.sink ++ [{ row0 := visibleCodes s .bank0, row1 := visibleCodes s .bank1 }]

/-- R265 (decision D19, log 19, log 25): a legal `Preset` gives each named register the given value and changes nothing
else; `SM`'s port values 0, 1, 2 are None, Left, Right and `EM`'s 1 is Increment. -/
def Obligations.PresetSetsTheNamedRegisters : Prop :=
  ∀ (s : State) (f : PresetFields) (rest : List HostCall), s.host = .preset f :: rest →
    (∀ a ∈ f.ac, validAddr s.config a) → f.sm ≠ some 3 →
    ∃ t, step s = .next t ∧
      t = { s with host := rest, ac := t.ac, em := t.em, sm := t.sm, d := t.d, c := t.c, b := t.b } ∧
      t.ac = f.ac.getD s.ac ∧ t.d = f.d.getD s.d ∧ t.c = f.c.getD s.c ∧ t.b = f.b.getD s.b ∧
      (f.em = some true → t.em = .increment) ∧ (f.em = some false → t.em = .decrement) ∧
      (f.em = none → t.em = s.em) ∧
      (f.sm = some 0 → t.sm = .none) ∧ (f.sm = some 1 → t.sm = .left) ∧ (f.sm = some 2 → t.sm = .right) ∧
      (f.sm = none → t.sm = s.sm)

/-- R265, R266, R284 (decision D17, log 19): an illegal `Preset` and an out-of-range `Query` selector are contract
violations with the offending port and value. That 3 is no value of `SM` is R28's decision D29 (log 25). -/
def Obligations.IllegalPresetAndQueryFault : Prop :=
  ∀ (s : State) (rest : List HostCall),
    (∀ f : PresetFields, s.host = .preset f :: rest →
      ((∃ a, f.ac = some a ∧ ¬ validAddr s.config a) ∨ f.sm = some 3) →
      step s = .fault (.contractViolation (.preset f))) ∧
    (∀ k o : Nat, s.host = .queryCell k o :: rest → 2 ≤ k ∨ s.config.totalColumns ≤ o →
      step s = .fault (.contractViolation (.queryCell k o))) ∧
    ∀ n : Nat, s.host = .queryGlyph n :: rest → 8 ≤ n →
      step s = .fault (.contractViolation (.queryGlyph n))

/-- R266 (decision D20, log 19): `Query` answers the state asked for and changes nothing; `EM` and `SM` are given by
their port numbers (R27, R28, decision D29, log 25). -/
def Obligations.QueryAnswersAndChangesNothing : Prop :=
  ∀ (s : State) (rest : List HostCall),
    (∀ o : Nat, o < s.config.totalColumns → s.host = .queryCell 0 o :: rest →
      step s = .next { s with
        host := rest, replies := s.replies ++ [.cell (s.cell .bank0 o).code (s.cell .bank0 o).bmp] }) ∧
    (∀ o : Nat, o < s.config.totalColumns → s.host = .queryCell 1 o :: rest →
      step s = .next { s with
        host := rest, replies := s.replies ++ [.cell (s.cell .bank1 o).code (s.cell .bank1 o).bmp] }) ∧
    (∀ (n : Nat) (h : n < 8), s.host = .queryGlyph n :: rest →
      step s = .next { s with host := rest, replies := s.replies ++ [.glyph s.cgram[n]] }) ∧
    (s.host = .queryRegs :: rest →
      ∃ r : RegsReply, step s = .next { s with host := rest, replies := s.replies ++ [.regs r] } ∧
        r.ac = s.ac ∧ r.ws = s.ws ∧ r.we = s.we ∧ r.d = s.d ∧ r.c = s.c ∧ r.b = s.b ∧ r.rs = s.rs ∧ r.rw = s.rw ∧
        (r.em = true ↔ s.em = .increment) ∧ (r.sm = 0 ↔ s.sm = .none) ∧ (r.sm = 1 ↔ s.sm = .left) ∧
        (r.sm = 2 ↔ s.sm = .right))

/-! ### Reset: spec/10_state.md, spec/70_reset_and_hazards.md -/

/-- R11, R50, R310, R46, R23 (log 9 to 13; DDRAM's form log 4): an illegal construction is refused; a legal
one gives the reset values in its own parameters, in a state that meets every invariant, with nothing pending and nothing given out. -/
def Obligations.ConstructionIsResetOrRefused : Prop :=
  ∀ p : Config,
    (¬ p.Legal → State.construct p = .refused .illegalConstruction) ∧
    (p.Legal → ∃ s, State.construct p = .next s ∧ s.config = p ∧
      s.ws = (p.totalColumns - p.visibleColumns) / 2 ∧ s.we + 1 = s.ws + p.visibleColumns ∧
      s.ac = p.bank0Base + s.ws ∧ s.em = p.resetEM ∧ s.sm = p.resetSM ∧ s.d = p.resetD ∧ s.c = p.resetC ∧
      s.b = p.resetB ∧ s.rs = false ∧ s.rw = false ∧ s.enp = false ∧
      (∀ (n : Nat) (h : n < 8), s.cgram[n] = Bitmap.zero) ∧
      (∀ a : Nat, s.ddram.read a = { code := 0, bmp := Bitmap.zero }) ∧
      s.host = [] ∧ s.sink = [] ∧ s.replies = [] ∧ s.Inv ∧ s.AcOk ∧ s.RomGlyphsOk)

/-- R311: the reset state with the default parameters (the values are the spec's decisions and derivations and the
presumed defaults, log 5, 6, 9 to 12; DDRAM's form is the model's choice, log 4). -/
def Obligations.ResetStateWithTheDefaults : Prop :=
  State.construct Config.default = .next State.reset ∧
  State.reset.ws = 12 ∧ State.reset.we = 27 ∧ State.reset.ac = 0x0C ∧ State.reset.em = .increment ∧
  State.reset.sm = .none ∧ State.reset.d = true ∧ State.reset.c = false ∧ State.reset.b = false ∧
  State.reset.rs = false ∧ State.reset.rw = false ∧ State.reset.enp = false ∧
  State.reset.ddram = [] ∧ State.reset.cgram = Vector.replicate 8 (Vector.replicate 8 0)

/-- R51: at reset every cell of both banks has code 0 and all eight bitmap rows 0. -/
def Obligations.ResetCellsAreZero : Prop :=
  ∀ (p : Config) (s : State), State.construct p = .next s →
    ∀ (k : Bank) (o : Nat), (s.cell k o).code = 0 ∧ ∀ r : Nat, (h : r < 8) → (s.cell k o).bmp[r] = 0

/-- The reset state meets the invariants that every step keeps (the width as a bound and DDRAM's form are the model's
choices, log 2 and log 4; the values are those of log 6, 12 and 15). -/
def Obligations.ResetMeetsTheInvariants : Prop :=
  State.reset.Inv ∧ State.reset.AcOk ∧ State.reset.RomGlyphsOk ∧
    State.reset.config.decUnderflow = .wrapToBank1End

/-! ### Invariants -/

/-- Every step keeps the construction legal, the window in place, AC within its width, and DDRAM in its canonical form
over existing cells, under either `DEC_UNDERFLOW` (log 2, log 4). That the bounds of the window move together or not at
all is the spec's decision D13 (log 14), and the wraps of AC its decisions D14 to D16 (log 15, log 16). -/
def Obligations.StepKeepsTheInvariant : Prop :=
  ∀ s t : State, s.Inv → step s = .next t → t.Inv

/-- R46, R47: every step keeps I1 to I4 under the default policy, and a legal construction starts in them; I5 is in the
types. That the bounds of the window move together is the spec's decision D13 (log 14), the decrement wraps D14 and D15
(log 15), that `Preset` takes a valid AC only D19 (log 19), the address `CLR` and reset give D10 (log 12). -/
def Obligations.StepKeepsWindowAndAddress : Prop :=
  (∀ s t : State, s.config.Legal → s.config.decUnderflow = .wrapToBank1End → s.WindowOk → s.AcOk →
    step s = .next t → 0 ≤ t.ws ∧ t.WindowOk ∧ t.AcOk) ∧
  ∀ (p : Config) (s : State), State.construct p = .next s → s.WindowOk ∧ s.AcOk

/-- R47 (derived there; log 15): under `free_run` a decrementing write at bank 0's start can leave the banks. -/
def Obligations.FreeRunLeavesTheBanks : Prop :=
  ∃ s t : State, s.Inv ∧ s.AcOk ∧ s.config.decUnderflow = .freeRun ∧ step s = .next t ∧ ¬ t.AcOk

/-- R23: every step keeps every cell whose code resolves through CGROM holding that glyph, rows 0 to 6 exactly and row
7 exactly or as the cursor overlay leaves it, 0b11111 or 0 (R242, R243: the procedure over the gloss, the spec's decision
D23, log 17). -/
def Obligations.StepKeepsRomGlyphs : Prop :=
  ∀ s t : State, s.RomGlyphsOk → step s = .next t → t.RomGlyphsOk

/-! ### Who writes what: spec/10_state.md R34 -/

/-- R45, R263 (log 1): no step changes a construction parameter. -/
def Obligations.ParametersNeverChange : Prop :=
  ∀ s t : State, step s = .next t → t.config = s.config

/-- R27, R28, R32: `EM`, `SM`, `D`, `C` and `B` are written by `Preset` and by nothing else; no instruction writes
them. The port is the spec's decision D19 (log 19); that `CLR` leaves the modes alone is its decision D22 (log 18). -/
def Obligations.OnlyPresetWritesTheModes : Prop :=
  (∀ (i : Instr) (s : State), ∃ t, exec i s = .next t ∧
    t.em = s.em ∧ t.sm = s.sm ∧ t.d = s.d ∧ t.c = s.c ∧ t.b = s.b) ∧
  ∀ (s t : State) (call : HostCall) (rest : List HostCall), s.host = call :: rest → step s = .next t →
    (∀ f : PresetFields, call ≠ .preset f) →
    t.em = s.em ∧ t.sm = s.sm ∧ t.d = s.d ∧ t.c = s.c ∧ t.b = s.b

/-- R34 (derived there): the writers of every other piece of state, and of the model's own output lists (log 3). It rests
on the spec's decisions about what `CLR` leaves alone (D22, log 18), `sendData` (D18, log 27) and the ports `Preset` and
`Query` (D19, D20, log 19). -/
def Obligations.EveryRegisterHasItsWriters : Prop :=
  ∀ (s t : State) (call : HostCall) (rest : List HostCall), s.host = call :: rest → step s = .next t →
    (t.cgram ≠ s.cgram → ∃ slot g, call = .writeCustomGlyph slot g) ∧
    (t.rs ≠ s.rs ∨ t.rw ≠ s.rw ∨ t.enp ≠ s.enp → ∃ rs rw en db, call = .edge rs rw en db) ∧
    (t.ws ≠ s.ws ∨ t.we ≠ s.we →
      (∃ db, call = .edge false false false db) ∨ (∃ v, call = .edge true false false v ∧ s.sm ≠ .none) ∨
        ∃ v, call = .sendData v ∧ s.sm ≠ .none) ∧
    (t.ac ≠ s.ac →
      (∃ rs db, call = .edge rs false false db) ∨ (∃ v, call = .sendData v) ∨ ∃ f, call = .preset f) ∧
    (t.ddram ≠ s.ddram →
      (∃ rs db, call = .edge rs false false db) ∨ (∃ v, call = .sendData v) ∨ call = .updateCursor ∨
        call = .refresh) ∧
    (t.sink ≠ s.sink → call = .render ∨ call = .refresh) ∧
    (t.replies ≠ s.replies →
      (∃ k o, call = .queryCell k o) ∨ (∃ n, call = .queryGlyph n) ∨ call = .queryRegs)

/-- R23, R34, R140: in one step a cell stays as it is, or is written whole by `setChar`, or has row 7 alone set or
cleared by the cursor overlay. That the overlay leaves row 7 at 0b11111 or 0, with `C` = 1 only, is R242 and R243
(the procedure over the gloss, the spec's decision D23, log 17); that `CLR` writes the current glyph is its decision D22 (log 18). -/
def Obligations.CellsChangeOnlyBySetCharOrOverlay : Prop :=
  ∀ (s t : State) (a : Nat), step s = .next t →
    t.ddram.read a = s.ddram.read a ∨
    (∃ code, t.ddram.read a = { code := code, bmp := resolve s code }) ∨
    ∃ row : Row, (row = 0b11111 ∨ row = 0b00000) ∧ s.c = true ∧ a = cellAddr s.config s.ac ∧
      t.ddram.read a = { s.ddram.read a with bmp := (s.ddram.read a).bmp.set 7 row }

/-! ### Faults: spec/60_exceptions.md -/

/-- R280: every bus call, `sendData`, `render`, `updateCursor` and `refresh` answers a next state in every state and for
every input. -/
def Obligations.DeviceOperationsAreTotal : Prop :=
  ∀ (s : State) (call : HostCall) (rest : List HostCall), s.host = call :: rest →
    ((∃ rs rw en db, call = .edge rs rw en db) ∨ (∃ v, call = .sendData v) ∨ call = .render ∨
      call = .updateCursor ∨ call = .refresh) →
    ∃ t, step s = .next t

/-- R284 (decision D17, log 19; that 3 is no value of `SM`, decision D29, log 25): no step is refused,
and a step that faults is a violation of one of the three host ports that can raise one. -/
def Obligations.OnlyHostPortViolationsStop : Prop :=
  ∀ s : State, (∀ r : Refusal, step s ≠ .refused r) ∧
    ∀ f : Fault, step s = .fault f → ∃ rest,
      (∃ slot g, s.host = .writeCustomGlyph slot g :: rest ∧ 8 ≤ slot ∧ s.config.slotOor = .failFast ∧
        f = .contractViolation (.customGlyphSlot slot)) ∨
      (∃ p, s.host = .preset p :: rest ∧ presetLegal s.config p = false ∧ f = .contractViolation (.preset p)) ∨
      (∃ k o, s.host = .queryCell k o :: rest ∧ (2 ≤ k ∨ s.config.totalColumns ≤ o) ∧
        f = .contractViolation (.queryCell k o)) ∨
      ∃ n, s.host = .queryGlyph n :: rest ∧ 8 ≤ n ∧ f = .contractViolation (.queryGlyph n)

/-- With no call to make, a step leaves the state as it is (the model's own convention, log 3; the device has no step of
its own, spec/20_memory.md R75). -/
def Obligations.IdleStepChangesNothing : Prop :=
  ∀ s : State, s.host = [] → step s = .next s
end

