-- ==== Sys2Proof/Laws/State.lean ====
section
/-! SUPPORT. One lemma per field per named update of the state, so that no proof unfolds a record update. -/

namespace Sys2Proof.Machine

open Sys2Proof

/-! ### `setCell` -/

@[simp] theorem setCell_config (s : State) (k : Bank) (o : Nat) (x : Cell) : (s.setCell k o x).config = s.config :=
  rfl
@[simp] theorem setCell_ddram (s : State) (k : Bank) (o : Nat) (x : Cell) : (s.setCell k o x).ddram = s.ddram.write (encodeAddr s.config k o) x :=
  rfl
@[simp] theorem setCell_cgram (s : State) (k : Bank) (o : Nat) (x : Cell) : (s.setCell k o x).cgram = s.cgram := rfl
@[simp] theorem setCell_ac (s : State) (k : Bank) (o : Nat) (x : Cell) : (s.setCell k o x).ac = s.ac := rfl
@[simp] theorem setCell_em (s : State) (k : Bank) (o : Nat) (x : Cell) : (s.setCell k o x).em = s.em := rfl
@[simp] theorem setCell_sm (s : State) (k : Bank) (o : Nat) (x : Cell) : (s.setCell k o x).sm = s.sm := rfl
@[simp] theorem setCell_ws (s : State) (k : Bank) (o : Nat) (x : Cell) : (s.setCell k o x).ws = s.ws := rfl
@[simp] theorem setCell_we (s : State) (k : Bank) (o : Nat) (x : Cell) : (s.setCell k o x).we = s.we := rfl
@[simp] theorem setCell_rs (s : State) (k : Bank) (o : Nat) (x : Cell) : (s.setCell k o x).rs = s.rs := rfl
@[simp] theorem setCell_rw (s : State) (k : Bank) (o : Nat) (x : Cell) : (s.setCell k o x).rw = s.rw := rfl
@[simp] theorem setCell_enp (s : State) (k : Bank) (o : Nat) (x : Cell) : (s.setCell k o x).enp = s.enp := rfl
@[simp] theorem setCell_d (s : State) (k : Bank) (o : Nat) (x : Cell) : (s.setCell k o x).d = s.d := rfl
@[simp] theorem setCell_c (s : State) (k : Bank) (o : Nat) (x : Cell) : (s.setCell k o x).c = s.c := rfl
@[simp] theorem setCell_b (s : State) (k : Bank) (o : Nat) (x : Cell) : (s.setCell k o x).b = s.b := rfl
@[simp] theorem setCell_host (s : State) (k : Bank) (o : Nat) (x : Cell) : (s.setCell k o x).host = s.host := rfl
@[simp] theorem setCell_sink (s : State) (k : Bank) (o : Nat) (x : Cell) : (s.setCell k o x).sink = s.sink := rfl
@[simp] theorem setCell_replies (s : State) (k : Bank) (o : Nat) (x : Cell) : (s.setCell k o x).replies = s.replies :=
  rfl

/-! ### `recordLines` -/

@[simp] theorem recordLines_config (s : State) (x y : Bool) : (recordLines x y s).config = s.config := rfl
@[simp] theorem recordLines_ddram (s : State) (x y : Bool) : (recordLines x y s).ddram = s.ddram := rfl
@[simp] theorem recordLines_cgram (s : State) (x y : Bool) : (recordLines x y s).cgram = s.cgram := rfl
@[simp] theorem recordLines_ac (s : State) (x y : Bool) : (recordLines x y s).ac = s.ac := rfl
@[simp] theorem recordLines_em (s : State) (x y : Bool) : (recordLines x y s).em = s.em := rfl
@[simp] theorem recordLines_sm (s : State) (x y : Bool) : (recordLines x y s).sm = s.sm := rfl
@[simp] theorem recordLines_ws (s : State) (x y : Bool) : (recordLines x y s).ws = s.ws := rfl
@[simp] theorem recordLines_we (s : State) (x y : Bool) : (recordLines x y s).we = s.we := rfl
@[simp] theorem recordLines_rs (s : State) (x y : Bool) : (recordLines x y s).rs = x := rfl
@[simp] theorem recordLines_rw (s : State) (x y : Bool) : (recordLines x y s).rw = y := rfl
@[simp] theorem recordLines_enp (s : State) (x y : Bool) : (recordLines x y s).enp = s.enp := rfl
@[simp] theorem recordLines_d (s : State) (x y : Bool) : (recordLines x y s).d = s.d := rfl
@[simp] theorem recordLines_c (s : State) (x y : Bool) : (recordLines x y s).c = s.c := rfl
@[simp] theorem recordLines_b (s : State) (x y : Bool) : (recordLines x y s).b = s.b := rfl
@[simp] theorem recordLines_host (s : State) (x y : Bool) : (recordLines x y s).host = s.host := rfl
@[simp] theorem recordLines_sink (s : State) (x y : Bool) : (recordLines x y s).sink = s.sink := rfl
@[simp] theorem recordLines_replies (s : State) (x y : Bool) : (recordLines x y s).replies = s.replies := rfl

/-! ### `withLatch` -/

@[simp] theorem withLatch_config (s : State) (x y z : Bool) : (s.withLatch x y z).config = s.config := rfl
@[simp] theorem withLatch_ddram (s : State) (x y z : Bool) : (s.withLatch x y z).ddram = s.ddram := rfl
@[simp] theorem withLatch_cgram (s : State) (x y z : Bool) : (s.withLatch x y z).cgram = s.cgram := rfl
@[simp] theorem withLatch_ac (s : State) (x y z : Bool) : (s.withLatch x y z).ac = s.ac := rfl
@[simp] theorem withLatch_em (s : State) (x y z : Bool) : (s.withLatch x y z).em = s.em := rfl
@[simp] theorem withLatch_sm (s : State) (x y z : Bool) : (s.withLatch x y z).sm = s.sm := rfl
@[simp] theorem withLatch_ws (s : State) (x y z : Bool) : (s.withLatch x y z).ws = s.ws := rfl
@[simp] theorem withLatch_we (s : State) (x y z : Bool) : (s.withLatch x y z).we = s.we := rfl
@[simp] theorem withLatch_rs (s : State) (x y z : Bool) : (s.withLatch x y z).rs = x := rfl
@[simp] theorem withLatch_rw (s : State) (x y z : Bool) : (s.withLatch x y z).rw = y := rfl
@[simp] theorem withLatch_enp (s : State) (x y z : Bool) : (s.withLatch x y z).enp = z := rfl
@[simp] theorem withLatch_d (s : State) (x y z : Bool) : (s.withLatch x y z).d = s.d := rfl
@[simp] theorem withLatch_c (s : State) (x y z : Bool) : (s.withLatch x y z).c = s.c := rfl
@[simp] theorem withLatch_b (s : State) (x y z : Bool) : (s.withLatch x y z).b = s.b := rfl
@[simp] theorem withLatch_host (s : State) (x y z : Bool) : (s.withLatch x y z).host = s.host := rfl
@[simp] theorem withLatch_sink (s : State) (x y z : Bool) : (s.withLatch x y z).sink = s.sink := rfl
@[simp] theorem withLatch_replies (s : State) (x y z : Bool) : (s.withLatch x y z).replies = s.replies := rfl

/-! ### `withCalls` -/

@[simp] theorem withCalls_config (s : State) (calls : List HostCall) : (s.withCalls calls).config = s.config := rfl
@[simp] theorem withCalls_ddram (s : State) (calls : List HostCall) : (s.withCalls calls).ddram = s.ddram := rfl
@[simp] theorem withCalls_cgram (s : State) (calls : List HostCall) : (s.withCalls calls).cgram = s.cgram := rfl
@[simp] theorem withCalls_ac (s : State) (calls : List HostCall) : (s.withCalls calls).ac = s.ac := rfl
@[simp] theorem withCalls_em (s : State) (calls : List HostCall) : (s.withCalls calls).em = s.em := rfl
@[simp] theorem withCalls_sm (s : State) (calls : List HostCall) : (s.withCalls calls).sm = s.sm := rfl
@[simp] theorem withCalls_ws (s : State) (calls : List HostCall) : (s.withCalls calls).ws = s.ws := rfl
@[simp] theorem withCalls_we (s : State) (calls : List HostCall) : (s.withCalls calls).we = s.we := rfl
@[simp] theorem withCalls_rs (s : State) (calls : List HostCall) : (s.withCalls calls).rs = s.rs := rfl
@[simp] theorem withCalls_rw (s : State) (calls : List HostCall) : (s.withCalls calls).rw = s.rw := rfl
@[simp] theorem withCalls_enp (s : State) (calls : List HostCall) : (s.withCalls calls).enp = s.enp := rfl
@[simp] theorem withCalls_d (s : State) (calls : List HostCall) : (s.withCalls calls).d = s.d := rfl
@[simp] theorem withCalls_c (s : State) (calls : List HostCall) : (s.withCalls calls).c = s.c := rfl
@[simp] theorem withCalls_b (s : State) (calls : List HostCall) : (s.withCalls calls).b = s.b := rfl
@[simp] theorem withCalls_host (s : State) (calls : List HostCall) : (s.withCalls calls).host = calls := rfl
@[simp] theorem withCalls_sink (s : State) (calls : List HostCall) : (s.withCalls calls).sink = s.sink := rfl
@[simp] theorem withCalls_replies (s : State) (calls : List HostCall) : (s.withCalls calls).replies = s.replies := rfl

/-! ### `presentWord` -/

@[simp] theorem presentWord_config (s : State) (t : TWord) : (presentWord s t).config = s.config := rfl
@[simp] theorem presentWord_ddram (s : State) (t : TWord) : (presentWord s t).ddram = s.ddram := rfl
@[simp] theorem presentWord_cgram (s : State) (t : TWord) : (presentWord s t).cgram = s.cgram := rfl
@[simp] theorem presentWord_ac (s : State) (t : TWord) : (presentWord s t).ac = s.ac := rfl
@[simp] theorem presentWord_em (s : State) (t : TWord) : (presentWord s t).em = s.em := rfl
@[simp] theorem presentWord_sm (s : State) (t : TWord) : (presentWord s t).sm = s.sm := rfl
@[simp] theorem presentWord_ws (s : State) (t : TWord) : (presentWord s t).ws = s.ws := rfl
@[simp] theorem presentWord_we (s : State) (t : TWord) : (presentWord s t).we = s.we := rfl
@[simp] theorem presentWord_rs (s : State) (t : TWord) : (presentWord s t).rs = s.rs := rfl
@[simp] theorem presentWord_rw (s : State) (t : TWord) : (presentWord s t).rw = s.rw := rfl
@[simp] theorem presentWord_enp (s : State) (t : TWord) : (presentWord s t).enp = true := rfl
@[simp] theorem presentWord_d (s : State) (t : TWord) : (presentWord s t).d = s.d := rfl
@[simp] theorem presentWord_c (s : State) (t : TWord) : (presentWord s t).c = s.c := rfl
@[simp] theorem presentWord_b (s : State) (t : TWord) : (presentWord s t).b = s.b := rfl
@[simp] theorem presentWord_host (s : State) (t : TWord) : (presentWord s t).host = edgeOfWord t :: s.host := rfl
@[simp] theorem presentWord_sink (s : State) (t : TWord) : (presentWord s t).sink = s.sink := rfl
@[simp] theorem presentWord_replies (s : State) (t : TWord) : (presentWord s t).replies = s.replies := rfl

/-! ### `answer` -/

@[simp] theorem answer_config (s : State) (r : Reply) : (answer r s).config = s.config := rfl
@[simp] theorem answer_ddram (s : State) (r : Reply) : (answer r s).ddram = s.ddram := rfl
@[simp] theorem answer_cgram (s : State) (r : Reply) : (answer r s).cgram = s.cgram := rfl
@[simp] theorem answer_ac (s : State) (r : Reply) : (answer r s).ac = s.ac := rfl
@[simp] theorem answer_em (s : State) (r : Reply) : (answer r s).em = s.em := rfl
@[simp] theorem answer_sm (s : State) (r : Reply) : (answer r s).sm = s.sm := rfl
@[simp] theorem answer_ws (s : State) (r : Reply) : (answer r s).ws = s.ws := rfl
@[simp] theorem answer_we (s : State) (r : Reply) : (answer r s).we = s.we := rfl
@[simp] theorem answer_rs (s : State) (r : Reply) : (answer r s).rs = s.rs := rfl
@[simp] theorem answer_rw (s : State) (r : Reply) : (answer r s).rw = s.rw := rfl
@[simp] theorem answer_enp (s : State) (r : Reply) : (answer r s).enp = s.enp := rfl
@[simp] theorem answer_d (s : State) (r : Reply) : (answer r s).d = s.d := rfl
@[simp] theorem answer_c (s : State) (r : Reply) : (answer r s).c = s.c := rfl
@[simp] theorem answer_b (s : State) (r : Reply) : (answer r s).b = s.b := rfl
@[simp] theorem answer_host (s : State) (r : Reply) : (answer r s).host = s.host := rfl
@[simp] theorem answer_sink (s : State) (r : Reply) : (answer r s).sink = s.sink := rfl
@[simp] theorem answer_replies (s : State) (r : Reply) : (answer r s).replies = s.replies ++ [r] := rfl

/-! ### `render` -/

@[simp] theorem render_config (s : State) : (render s).config = s.config := rfl
@[simp] theorem render_ddram (s : State) : (render s).ddram = s.ddram := rfl
@[simp] theorem render_cgram (s : State) : (render s).cgram = s.cgram := rfl
@[simp] theorem render_ac (s : State) : (render s).ac = s.ac := rfl
@[simp] theorem render_em (s : State) : (render s).em = s.em := rfl
@[simp] theorem render_sm (s : State) : (render s).sm = s.sm := rfl
@[simp] theorem render_ws (s : State) : (render s).ws = s.ws := rfl
@[simp] theorem render_we (s : State) : (render s).we = s.we := rfl
@[simp] theorem render_rs (s : State) : (render s).rs = s.rs := rfl
@[simp] theorem render_rw (s : State) : (render s).rw = s.rw := rfl
@[simp] theorem render_enp (s : State) : (render s).enp = s.enp := rfl
@[simp] theorem render_d (s : State) : (render s).d = s.d := rfl
@[simp] theorem render_c (s : State) : (render s).c = s.c := rfl
@[simp] theorem render_b (s : State) : (render s).b = s.b := rfl
@[simp] theorem render_host (s : State) : (render s).host = s.host := rfl
@[simp] theorem render_sink (s : State) : (render s).sink = s.sink ++ [{ row0 := visibleCodes s .bank0, row1 := visibleCodes s .bank1 }] :=
  rfl
@[simp] theorem render_replies (s : State) : (render s).replies = s.replies := rfl

/-! ### `State.initial` -/

@[simp] theorem initial_config (p : Config) : (State.initial p).config = p := rfl
@[simp] theorem initial_ddram (p : Config) : (State.initial p).ddram = [] := rfl
@[simp] theorem initial_cgram (p : Config) : (State.initial p).cgram = Vector.replicate 8 glyphReset := rfl
@[simp] theorem initial_ac (p : Config) : (State.initial p).ac = p.acDefault := rfl
@[simp] theorem initial_em (p : Config) : (State.initial p).em = p.resetEM := rfl
@[simp] theorem initial_sm (p : Config) : (State.initial p).sm = p.resetSM := rfl
@[simp] theorem initial_ws (p : Config) : (State.initial p).ws = p.wsDefault := rfl
@[simp] theorem initial_we (p : Config) : (State.initial p).we = p.wsDefault + p.visibleColumns - 1 := rfl
@[simp] theorem initial_rs (p : Config) : (State.initial p).rs = latchReset := rfl
@[simp] theorem initial_rw (p : Config) : (State.initial p).rw = latchReset := rfl
@[simp] theorem initial_enp (p : Config) : (State.initial p).enp = latchReset := rfl
@[simp] theorem initial_d (p : Config) : (State.initial p).d = p.resetD := rfl
@[simp] theorem initial_c (p : Config) : (State.initial p).c = p.resetC := rfl
@[simp] theorem initial_b (p : Config) : (State.initial p).b = p.resetB := rfl
@[simp] theorem initial_host (p : Config) : (State.initial p).host = [] := rfl
@[simp] theorem initial_sink (p : Config) : (State.initial p).sink = [] := rfl
@[simp] theorem initial_replies (p : Config) : (State.initial p).replies = [] := rfl

end Sys2Proof.Machine
end

