-- ==== Sys2Proof/Laws/Address.lean ====
section
/-! SUPPORT. The address map and the address-counter engine: where an access lands, and what keeps an address valid. -/

namespace Sys2Proof.Machine

open Sys2Proof

theorem decodeAddr_of_bank0 (p : Config) (a : Nat) (h : p.bank0Base ≤ a ∧ a ≤ p.bank0End) :
    decodeAddr p a = (.bank0, a - p.bank0Base) := by
  simp [decodeAddr, h]

theorem decodeAddr_of_bank1 (p : Config) (a : Nat) (h0 : ¬ (p.bank0Base ≤ a ∧ a ≤ p.bank0End))
    (h : p.bank1Base ≤ a ∧ a ≤ p.bank1End) : decodeAddr p a = (.bank1, a - p.bank1Base) := by
  simp [decodeAddr, h0, h]

theorem decodeAddr_of_invalid (p : Config) (a : Nat) (h : ¬ validAddr p a) : decodeAddr p a = (.bank0, 0) := by
  simp [decodeAddr, not_or.1 h]

/-- An access at a valid address reaches that address. -/
theorem cellAddr_of_valid (p : Config) (a : Nat) (h : validAddr p a) : cellAddr p a = a := by
  by_cases h0 : p.bank0Base ≤ a ∧ a ≤ p.bank0End
  · simp [cellAddr, decodeAddr_of_bank0 p a h0, encodeAddr, h0.1]
  · have h1 := h.resolve_left h0
    simp [cellAddr, decodeAddr_of_bank1 p a h0 h1, encodeAddr, h1.1]

/-- An access at an invalid address reaches the first cell of bank 0. -/
theorem cellAddr_of_invalid (p : Config) (a : Nat) (h : ¬ validAddr p a) : cellAddr p a = p.bank0Base := by
  simp [cellAddr, decodeAddr_of_invalid p a h, encodeAddr]

theorem columns_pos (p : Config) (h : p.Legal) : 1 ≤ p.totalColumns := Nat.le_trans h.1 h.2.1

theorem bank0End_succ (p : Config) (h : p.Legal) : p.bank0End + 1 = p.bank0Base + p.totalColumns := by
  have := columns_pos p h
  simp only [Config.bank0End]; omega

theorem bank1End_succ (p : Config) (h : p.Legal) : p.bank1End + 1 = p.bank1Base + p.totalColumns := by
  have := columns_pos p h
  simp only [Config.bank1End]; omega

theorem bank0End_lt_bank1Base (p : Config) (h : p.Legal) : p.bank0End < p.bank1Base := by
  have := bank0End_succ p h; have := h.2.2.1; omega

theorem bank1End_lt_acMod (p : Config) (h : p.Legal) : p.bank1End < p.acMod := by
  have := bank1End_succ p h; have := h.2.2.2.1; omega

theorem validAddr_lt_acMod (p : Config) (h : p.Legal) (a : Nat) (ha : validAddr p a) : a < p.acMod := by
  have := bank1End_lt_acMod p h; have := bank0End_lt_bank1Base p h; have := bank1End_succ p h
  have := columns_pos p h
  omega

theorem validAddr_encodeAddr (p : Config) (h : p.Legal) (k : Bank) (o : Nat) (ho : o < p.totalColumns) :
    validAddr p (encodeAddr p k o) := by
  have := bank0End_succ p h; have := bank1End_succ p h
  cases k <;> simp only [encodeAddr, validAddr] <;> omega

theorem validAddr_cellAddr (p : Config) (h : p.Legal) (a : Nat) : validAddr p (cellAddr p a) := by
  by_cases ha : validAddr p a
  · rw [cellAddr_of_valid p a ha]; exact ha
  · rw [cellAddr_of_invalid p a ha]
    have := bank0End_succ p h; have := columns_pos p h
    simp only [validAddr]; omega

/-- No two cells share an address. -/
theorem encodeAddr_inj (p : Config) (h : p.Legal) (k k' : Bank) (o o' : Nat) (ho : o < p.totalColumns)
    (ho' : o' < p.totalColumns) (he : encodeAddr p k o = encodeAddr p k' o') : k = k' ∧ o = o' := by
  have := h.2.2.1
  cases k <;> cases k' <;> simp only [encodeAddr] at he <;> simp <;> omega

theorem acMod_pos (p : Config) : 0 < p.acMod := Nat.two_pow_pos _

theorem acSucc_lt (p : Config) (a : Nat) : acSucc p a < p.acMod := Nat.mod_lt _ (acMod_pos p)

theorem acPred_lt (p : Config) (a : Nat) : acPred p a < p.acMod := Nat.mod_lt _ (acMod_pos p)

theorem acSucc_of_lt (p : Config) (a : Nat) (h : a + 1 < p.acMod) : acSucc p a = a + 1 := Nat.mod_eq_of_lt h

theorem acPred_of_pos (p : Config) (a : Nat) (h0 : 0 < a) (h : a < p.acMod) : acPred p a = a - 1 := by
  have he : a + p.acMod - 1 = a - 1 + p.acMod := by omega
  rw [acPred, he, Nat.add_mod_right, Nat.mod_eq_of_lt (by omega)]

/-- The engine's result always fits the address counter. -/
theorem nextAC_lt (p : Config) (h : p.Legal) (em : EntryMode) (a : Nat) : nextAC p em a < p.acMod := by
  have := bank1End_lt_acMod p h; have := bank0End_lt_bank1Base p h; have := bank1End_succ p h
  have := columns_pos p h; have := h.2.2.1
  have := acSucc_lt p a; have := acPred_lt p a
  cases em <;> simp only [nextAC]
  · split_ifs <;> omega
  · split_ifs
    · omega
    · cases p.decUnderflow <;> simp only <;> omega
    · omega

end Sys2Proof.Machine
end

