-- ==== Sys2Proof/Laws/Decode.lean ====
section
/-! SUPPORT. The transaction word packed and unpacked: no bit is lost and none is moved. -/

namespace Sys2Proof

theorem packWord_toNat (rs rw : Bool) (db : Byte) :
    (packWord rs rw db).toNat = rs.toNat * 512 + rw.toNat * 256 + db.toNat := by
  have h := db.isLt
  cases rs <;> cases rw <;> simp [packWord] <;> omega

theorem wordRS_eq (t : TWord) : wordRS t = decide (t.toNat / 512 % 2 = 1) := by
  simp [wordRS, BitVec.getLsbD, Nat.testBit_eq_decide_div_mod_eq]

theorem wordRW_eq (t : TWord) : wordRW t = decide (t.toNat / 256 % 2 = 1) := by
  simp [wordRW, BitVec.getLsbD, Nat.testBit_eq_decide_div_mod_eq]

theorem wordDB_toNat (t : TWord) : (wordDB t).toNat = t.toNat % 256 := by
  simp [wordDB]

@[simp] theorem wordRW_packWord (rs rw : Bool) (db : Byte) : wordRW (packWord rs rw db) = rw := by
  have h := db.isLt
  rw [wordRW_eq, packWord_toNat]
  cases rs <;> cases rw <;> simp <;> omega

@[simp] theorem wordRS_packWord (rs rw : Bool) (db : Byte) : wordRS (packWord rs rw db) = rs := by
  have h := db.isLt
  rw [wordRS_eq, packWord_toNat]
  cases rs <;> cases rw <;> simp <;> omega

@[simp] theorem wordDB_packWord (rs rw : Bool) (db : Byte) : wordDB (packWord rs rw db) = db := by
  have h := db.isLt
  apply BitVec.eq_of_toNat_eq
  rw [wordDB_toNat, packWord_toNat]
  cases rs <;> cases rw <;> simp <;> omega

/-- A transaction word is its RS, its RW and its DB. -/
@[simp] theorem packWord_word (t : TWord) : packWord (wordRS t) (wordRW t) (wordDB t) = t := by
  have h := t.isLt
  apply BitVec.eq_of_toNat_eq
  rw [packWord_toNat, wordDB_toNat, wordRS_eq, wordRW_eq]
  rcases Nat.mod_two_eq_zero_or_one (t.toNat / 512) with h1 | h1 <;>
    rcases Nat.mod_two_eq_zero_or_one (t.toNat / 256) with h2 | h2 <;> simp [h1, h2] <;> omega

end Sys2Proof
end

