-- ==== Sys2Proof/Laws/Memory.lean ====
section
/-! SUPPORT. DDRAM as a memory: a read after a write, the canonical form, and that equal contents are equal data. -/

namespace Sys2Proof.Machine

open Sys2Proof

@[simp] theorem read_nil (a : Nat) : Memory.read [] a = Cell.blank := rfl

theorem read_cons (e : Nat × Cell) (m : Memory) (a : Nat) :
    Memory.read (e :: m) a = if e.1 = a then e.2 else Memory.read m a := rfl

theorem read_insert_same (m : Memory) (a : Nat) (x : Cell) (h : ∀ e ∈ m, e.1 ≠ a) :
    Memory.read (Memory.insert m a x) a = x := by
  induction m with
  | nil => simp [Memory.insert, read_cons]
  | cons e m ih =>
    have he : e.1 ≠ a := h e (by simp)
    have ih := ih (fun e' he' => h e' (by simp [he']))
    by_cases hlt : a < e.1 <;> simp [Memory.insert, read_cons, hlt, he, ih]

theorem read_insert_other (m : Memory) (a k : Nat) (x : Cell) (h : k ≠ a) :
    Memory.read (Memory.insert m a x) k = Memory.read m k := by
  induction m with
  | nil => simp [Memory.insert, read_cons, Ne.symm h]
  | cons e m ih => by_cases hlt : a < e.1 <;> simp [Memory.insert, read_cons, hlt, ih, Ne.symm h]

theorem read_filter_same (m : Memory) (a : Nat) :
    Memory.read (m.filter (fun e => e.1 ≠ a)) a = Cell.blank := by
  induction m with
  | nil => rfl
  | cons e m ih => by_cases he : e.1 = a <;> simp_all [read_cons]

theorem read_filter_other (m : Memory) (a k : Nat) (h : k ≠ a) :
    Memory.read (m.filter (fun e => e.1 ≠ a)) k = Memory.read m k := by
  induction m with
  | nil => rfl
  | cons e m ih =>
    by_cases he : e.1 = a
    · have hk : e.1 ≠ k := fun hk => h (hk.symm.trans he)
      have hk' : ¬ a = k := fun hk' => h hk'.symm
      simp [he, read_cons, hk'] ; simpa using ih
    · simp [he, read_cons] ; split <;> simp_all

/-- A read after a write to the same place gives the value written, whatever the memory. -/
@[simp] theorem read_write_same (m : Memory) (a : Nat) (x : Cell) : (m.write a x).read a = x := by
  unfold Memory.write
  by_cases hx : x = Cell.blank
  · simpa [hx] using read_filter_same m a
  · simp only [hx, if_false]
    exact read_insert_same _ a x (by simp)

/-- A write leaves every other place alone. -/
theorem read_write_other (m : Memory) (a k : Nat) (x : Cell) (h : k ≠ a) :
    (m.write a x).read k = m.read k := by
  unfold Memory.write
  by_cases hx : x = Cell.blank
  · simpa [hx] using read_filter_other m a k h
  · simp only [hx, if_false]
    rw [read_insert_other _ _ _ _ h]
    exact read_filter_other m a k h

theorem read_write (m : Memory) (a k : Nat) (x : Cell) :
    (m.write a x).read k = if k = a then x else m.read k := by
  by_cases h : k = a
  · simp [h]
  · simp [h, read_write_other m a k x h]

theorem mem_insert (m : Memory) (a : Nat) (x : Cell) (e : Nat × Cell) :
    e ∈ Memory.insert m a x ↔ e = (a, x) ∨ e ∈ m := by
  induction m with
  | nil => simp [Memory.insert]
  | cons e' m ih =>
    by_cases hlt : a < e'.1
    · simp [Memory.insert, hlt]
    · simp [Memory.insert, hlt, ih, or_left_comm]

theorem mem_write (m : Memory) (a : Nat) (x : Cell) (e : Nat × Cell) :
    e ∈ m.write a x → (e = (a, x) ∧ x ≠ Cell.blank) ∨ (e ∈ m ∧ e.1 ≠ a) := by
  unfold Memory.write
  by_cases hx : x = Cell.blank
  · simp [hx]
  · simp only [hx, if_false, mem_insert, List.mem_filter]
    rintro (rfl | ⟨h, h'⟩)
    · exact .inl ⟨rfl, hx⟩
    · exact .inr ⟨h, by simpa using h'⟩

theorem insert_rising (m : Memory) (a : Nat) (x : Cell) (h : m.Pairwise (fun x y => x.1 < y.1))
    (ha : ∀ e ∈ m, e.1 ≠ a) : (Memory.insert m a x).Pairwise (fun x y => x.1 < y.1) := by
  induction m with
  | nil => simp [Memory.insert]
  | cons e m ih =>
    have ⟨he, hm⟩ := List.pairwise_cons.1 h
    have hne : e.1 ≠ a := ha e (by simp)
    by_cases hlt : a < e.1
    · rw [Memory.insert, if_pos hlt, List.pairwise_cons]
      refine ⟨fun y hy => ?_, h⟩
      rcases List.mem_cons.1 hy with rfl | hy
      · exact hlt
      · exact Nat.lt_trans hlt (he y hy)
    · rw [Memory.insert, if_neg hlt, List.pairwise_cons]
      refine ⟨fun y hy => ?_, ih hm (fun y hy => ha y (by simp [hy]))⟩
      rcases (mem_insert m a x y).1 hy with rfl | hy
      · simp only; omega
      · exact he y hy

@[simp] theorem wf_nil : Memory.wf [] := ⟨List.Pairwise.nil, by simp⟩

/-- Every write keeps the canonical form. -/
theorem write_wf (m : Memory) (a : Nat) (x : Cell) (h : m.wf) : (m.write a x).wf := by
  refine ⟨?_, fun e he => ?_⟩
  · unfold Memory.write
    have hf : (m.filter (fun e => e.1 ≠ a)).Pairwise (fun x y => x.1 < y.1) := h.1.filter _
    by_cases hx : x = Cell.blank
    · simpa [hx] using hf
    · simp only [hx, if_false]
      exact insert_rising _ a x hf (by simp)
  · rcases mem_write m a x e he with ⟨rfl, hx⟩ | ⟨he, -⟩
    · exact hx
    · exact h.2 e he

@[simp] theorem mapped_nil (p : Config) : Memory.mapped p [] := by simp [Memory.mapped]

/-- A write to an address with a cell lists only addresses with a cell. -/
theorem write_mapped (p : Config) (m : Memory) (a : Nat) (x : Cell) (h : m.mapped p) (ha : validAddr p a) :
    (m.write a x).mapped p := by
  intro e he
  rcases mem_write m a x e he with ⟨rfl, -⟩ | ⟨he, -⟩
  · exact ha
  · exact h e he

theorem filter_insert (m : Memory) (a : Nat) (x : Cell) :
    (Memory.insert m a x).filter (fun e => e.1 ≠ a) = m.filter (fun e => e.1 ≠ a) := by
  induction m with
  | nil => simp [Memory.insert]
  | cons e m ih =>
    by_cases hlt : a < e.1
    · rw [Memory.insert, if_pos hlt]; simp
    · rw [Memory.insert, if_neg hlt, List.filter_cons, List.filter_cons, ih]

/-- The last of two writes to one place is the only one that counts. -/
@[simp] theorem write_write_same (m : Memory) (a : Nat) (x y : Cell) : (m.write a x).write a y = m.write a y := by
  have hf : (m.write a x).filter (fun e => e.1 ≠ a) = m.filter (fun e => e.1 ≠ a) := by
    unfold Memory.write
    by_cases hx : x = Cell.blank
    · simp [hx]
    · simp only [hx, if_false, filter_insert]; simp
  unfold Memory.write at hf ⊢
  simp only at hf ⊢
  rw [hf]

theorem read_of_lt_all (m : Memory) (a : Nat) (h : ∀ e ∈ m, a < e.1) : m.read a = Cell.blank := by
  induction m with
  | nil => rfl
  | cons e m ih =>
    have he : e.1 ≠ a := Nat.ne_of_gt (h e (by simp))
    simpa [read_cons, he] using ih (fun e' he' => h e' (by simp [he']))

/-- An address whose cell is not blank is listed. -/
theorem mem_of_read_ne_blank (m : Memory) (a : Nat) (h : m.read a ≠ Cell.blank) : ∃ e ∈ m, e.1 = a := by
  induction m with
  | nil => simp at h
  | cons e m ih =>
    by_cases he : e.1 = a
    · exact ⟨e, by simp, he⟩
    · obtain ⟨e', he', h'⟩ := ih (by simpa [read_cons, he] using h)
      exact ⟨e', by simp [he'], h'⟩

/-- A canonical memory that reads blank everywhere lists nothing. -/
theorem eq_nil_of_reads_blank (m : Memory) (hm : m.wf) (h : ∀ a, m.read a = Cell.blank) : m = [] := by
  cases m with
  | nil => rfl
  | cons e m => exact absurd (by simpa [read_cons] using h e.1) (hm.2 e (by simp))

/-- Canonical memories with equal contents are equal data. -/
theorem eq_of_reads_eq (m n : Memory) (hm : m.wf) (hn : n.wf) (h : ∀ a, m.read a = n.read a) : m = n := by
  induction m generalizing n with
  | nil => exact (eq_nil_of_reads_blank n hn (fun a => (h a).symm)).symm
  | cons e m ih =>
    cases n with
    | nil => exact eq_nil_of_reads_blank _ hm h
    | cons e' n =>
      obtain ⟨he, hm'⟩ := List.pairwise_cons.1 hm.1
      obtain ⟨he', hn'⟩ := List.pairwise_cons.1 hn.1
      have hmt : Memory.read m e.1 = Cell.blank := read_of_lt_all m e.1 he
      have hnt : Memory.read n e'.1 = Cell.blank := read_of_lt_all n e'.1 he'
      have hkey : e.1 = e'.1 := by
        rcases Nat.lt_trichotomy e.1 e'.1 with hlt | heq | hgt
        · have := h e.1
          rw [read_of_lt_all (e' :: n) e.1 (by
            intro y hy
            rcases List.mem_cons.1 hy with rfl | hy
            · exact hlt
            · exact Nat.lt_trans hlt (he' y hy))] at this
          exact absurd (by simpa [read_cons] using this) (hm.2 e (by simp))
        · exact heq
        · have := h e'.1
          rw [read_of_lt_all (e :: m) e'.1 (by
            intro y hy
            rcases List.mem_cons.1 hy with rfl | hy
            · exact hgt
            · exact Nat.lt_trans hgt (he y hy))] at this
          exact absurd (by simpa [read_cons] using this.symm) (hn.2 e' (by simp))
      have hval : e.2 = e'.2 := by simpa [read_cons, hkey] using h e.1
      have heq : e = e' := Prod.ext hkey hval
      subst heq
      have hmn : m = n := by
        refine ih n ⟨hm', fun y hy => hm.2 y (by simp [hy])⟩ ⟨hn', fun y hy => hn.2 y (by simp [hy])⟩ (fun a => ?_)
        by_cases ha : e.1 = a
        · rw [← ha, hmt, hnt]
        · simpa [read_cons, ha] using h a
      rw [hmn]

end Sys2Proof.Machine
end

