-- ==== Sys2Proof/Laws/Ops.lean ====
section
/-! SUPPORT. What each shared operation can do, said once. -/

namespace Sys2Proof.Machine

open Sys2Proof

/-- A read reaches the cell at `cellAddr`. -/
theorem memRead_eq (s : State) (a : Nat) : memRead s a = s.ddram.read (cellAddr s.config a) := rfl

/-- `resolve` depends on CGRAM and CGROM alone. -/
theorem resolve_congr (s t : State) (code : Byte) (hg : t.cgram = s.cgram) (hc : t.config = s.config) :
    resolve t code = resolve s code := by
  simp only [resolve, hg, hc]

theorem setChar_congr (s t : State) (code : Byte) (hg : t.cgram = s.cgram) (hc : t.config = s.config) :
    setChar t code = setChar s code := by
  simp only [setChar, resolve_congr s t code hg hc]

/-! ### `memPut`: only DDRAM changes -/

@[simp] theorem memPut_config (s : State) (a : Nat) (x : Cell) : (memPut s a x).config = s.config := rfl
@[simp] theorem memPut_ddram (s : State) (a : Nat) (x : Cell) : (memPut s a x).ddram = s.ddram.write (cellAddr s.config a) x :=
  rfl
@[simp] theorem memPut_cgram (s : State) (a : Nat) (x : Cell) : (memPut s a x).cgram = s.cgram := rfl
@[simp] theorem memPut_ac (s : State) (a : Nat) (x : Cell) : (memPut s a x).ac = s.ac := rfl
@[simp] theorem memPut_em (s : State) (a : Nat) (x : Cell) : (memPut s a x).em = s.em := rfl
@[simp] theorem memPut_sm (s : State) (a : Nat) (x : Cell) : (memPut s a x).sm = s.sm := rfl
@[simp] theorem memPut_ws (s : State) (a : Nat) (x : Cell) : (memPut s a x).ws = s.ws := rfl
@[simp] theorem memPut_we (s : State) (a : Nat) (x : Cell) : (memPut s a x).we = s.we := rfl
@[simp] theorem memPut_rs (s : State) (a : Nat) (x : Cell) : (memPut s a x).rs = s.rs := rfl
@[simp] theorem memPut_rw (s : State) (a : Nat) (x : Cell) : (memPut s a x).rw = s.rw := rfl
@[simp] theorem memPut_enp (s : State) (a : Nat) (x : Cell) : (memPut s a x).enp = s.enp := rfl
@[simp] theorem memPut_d (s : State) (a : Nat) (x : Cell) : (memPut s a x).d = s.d := rfl
@[simp] theorem memPut_c (s : State) (a : Nat) (x : Cell) : (memPut s a x).c = s.c := rfl
@[simp] theorem memPut_b (s : State) (a : Nat) (x : Cell) : (memPut s a x).b = s.b := rfl
@[simp] theorem memPut_host (s : State) (a : Nat) (x : Cell) : (memPut s a x).host = s.host := rfl
@[simp] theorem memPut_sink (s : State) (a : Nat) (x : Cell) : (memPut s a x).sink = s.sink := rfl
@[simp] theorem memPut_replies (s : State) (a : Nat) (x : Cell) : (memPut s a x).replies = s.replies := rfl

/-! ### `memWrite`: only DDRAM changes -/

@[simp] theorem memWrite_config (s : State) (a : Nat) (v : Byte) : (memWrite s a v).config = s.config := rfl
@[simp] theorem memWrite_ddram (s : State) (a : Nat) (v : Byte) : (memWrite s a v).ddram = s.ddram.write (cellAddr s.config a) (setChar s v) :=
  rfl
@[simp] theorem memWrite_cgram (s : State) (a : Nat) (v : Byte) : (memWrite s a v).cgram = s.cgram := rfl
@[simp] theorem memWrite_ac (s : State) (a : Nat) (v : Byte) : (memWrite s a v).ac = s.ac := rfl
@[simp] theorem memWrite_em (s : State) (a : Nat) (v : Byte) : (memWrite s a v).em = s.em := rfl
@[simp] theorem memWrite_sm (s : State) (a : Nat) (v : Byte) : (memWrite s a v).sm = s.sm := rfl
@[simp] theorem memWrite_ws (s : State) (a : Nat) (v : Byte) : (memWrite s a v).ws = s.ws := rfl
@[simp] theorem memWrite_we (s : State) (a : Nat) (v : Byte) : (memWrite s a v).we = s.we := rfl
@[simp] theorem memWrite_rs (s : State) (a : Nat) (v : Byte) : (memWrite s a v).rs = s.rs := rfl
@[simp] theorem memWrite_rw (s : State) (a : Nat) (v : Byte) : (memWrite s a v).rw = s.rw := rfl
@[simp] theorem memWrite_enp (s : State) (a : Nat) (v : Byte) : (memWrite s a v).enp = s.enp := rfl
@[simp] theorem memWrite_d (s : State) (a : Nat) (v : Byte) : (memWrite s a v).d = s.d := rfl
@[simp] theorem memWrite_c (s : State) (a : Nat) (v : Byte) : (memWrite s a v).c = s.c := rfl
@[simp] theorem memWrite_b (s : State) (a : Nat) (v : Byte) : (memWrite s a v).b = s.b := rfl
@[simp] theorem memWrite_host (s : State) (a : Nat) (v : Byte) : (memWrite s a v).host = s.host := rfl
@[simp] theorem memWrite_sink (s : State) (a : Nat) (v : Byte) : (memWrite s a v).sink = s.sink := rfl
@[simp] theorem memWrite_replies (s : State) (a : Nat) (v : Byte) : (memWrite s a v).replies = s.replies := rfl

/-! ### `shiftRight`: only the window changes -/

@[simp] theorem shiftRight_config (s : State) : (shiftRight s).config = s.config :=
  by unfold shiftRight; split <;> rfl
@[simp] theorem shiftRight_ddram (s : State) : (shiftRight s).ddram = s.ddram := by unfold shiftRight; split <;> rfl
@[simp] theorem shiftRight_cgram (s : State) : (shiftRight s).cgram = s.cgram := by unfold shiftRight; split <;> rfl
@[simp] theorem shiftRight_ac (s : State) : (shiftRight s).ac = s.ac := by unfold shiftRight; split <;> rfl
@[simp] theorem shiftRight_em (s : State) : (shiftRight s).em = s.em := by unfold shiftRight; split <;> rfl
@[simp] theorem shiftRight_sm (s : State) : (shiftRight s).sm = s.sm := by unfold shiftRight; split <;> rfl
@[simp] theorem shiftRight_ws (s : State) : (shiftRight s).ws = if s.ws > 0 then s.ws - 1 else s.ws :=
  by unfold shiftRight; split <;> rfl
@[simp] theorem shiftRight_we (s : State) : (shiftRight s).we = if s.ws > 0 then s.we - 1 else s.we :=
  by unfold shiftRight; split <;> rfl
@[simp] theorem shiftRight_rs (s : State) : (shiftRight s).rs = s.rs := by unfold shiftRight; split <;> rfl
@[simp] theorem shiftRight_rw (s : State) : (shiftRight s).rw = s.rw := by unfold shiftRight; split <;> rfl
@[simp] theorem shiftRight_enp (s : State) : (shiftRight s).enp = s.enp := by unfold shiftRight; split <;> rfl
@[simp] theorem shiftRight_d (s : State) : (shiftRight s).d = s.d := by unfold shiftRight; split <;> rfl
@[simp] theorem shiftRight_c (s : State) : (shiftRight s).c = s.c := by unfold shiftRight; split <;> rfl
@[simp] theorem shiftRight_b (s : State) : (shiftRight s).b = s.b := by unfold shiftRight; split <;> rfl
@[simp] theorem shiftRight_host (s : State) : (shiftRight s).host = s.host := by unfold shiftRight; split <;> rfl
@[simp] theorem shiftRight_sink (s : State) : (shiftRight s).sink = s.sink := by unfold shiftRight; split <;> rfl
@[simp] theorem shiftRight_replies (s : State) : (shiftRight s).replies = s.replies :=
  by unfold shiftRight; split <;> rfl

/-! ### `shiftLeft`: only the window changes -/

@[simp] theorem shiftLeft_config (s : State) : (shiftLeft s).config = s.config := by unfold shiftLeft; split <;> rfl
@[simp] theorem shiftLeft_ddram (s : State) : (shiftLeft s).ddram = s.ddram := by unfold shiftLeft; split <;> rfl
@[simp] theorem shiftLeft_cgram (s : State) : (shiftLeft s).cgram = s.cgram := by unfold shiftLeft; split <;> rfl
@[simp] theorem shiftLeft_ac (s : State) : (shiftLeft s).ac = s.ac := by unfold shiftLeft; split <;> rfl
@[simp] theorem shiftLeft_em (s : State) : (shiftLeft s).em = s.em := by unfold shiftLeft; split <;> rfl
@[simp] theorem shiftLeft_sm (s : State) : (shiftLeft s).sm = s.sm := by unfold shiftLeft; split <;> rfl
@[simp] theorem shiftLeft_ws (s : State) : (shiftLeft s).ws = if s.we < s.config.totalColumns - 1 then s.ws + 1 else s.ws :=
  by unfold shiftLeft; split <;> rfl
@[simp] theorem shiftLeft_we (s : State) : (shiftLeft s).we = if s.we < s.config.totalColumns - 1 then s.we + 1 else s.we :=
  by unfold shiftLeft; split <;> rfl
@[simp] theorem shiftLeft_rs (s : State) : (shiftLeft s).rs = s.rs := by unfold shiftLeft; split <;> rfl
@[simp] theorem shiftLeft_rw (s : State) : (shiftLeft s).rw = s.rw := by unfold shiftLeft; split <;> rfl
@[simp] theorem shiftLeft_enp (s : State) : (shiftLeft s).enp = s.enp := by unfold shiftLeft; split <;> rfl
@[simp] theorem shiftLeft_d (s : State) : (shiftLeft s).d = s.d := by unfold shiftLeft; split <;> rfl
@[simp] theorem shiftLeft_c (s : State) : (shiftLeft s).c = s.c := by unfold shiftLeft; split <;> rfl
@[simp] theorem shiftLeft_b (s : State) : (shiftLeft s).b = s.b := by unfold shiftLeft; split <;> rfl
@[simp] theorem shiftLeft_host (s : State) : (shiftLeft s).host = s.host := by unfold shiftLeft; split <;> rfl
@[simp] theorem shiftLeft_sink (s : State) : (shiftLeft s).sink = s.sink := by unfold shiftLeft; split <;> rfl
@[simp] theorem shiftLeft_replies (s : State) : (shiftLeft s).replies = s.replies :=
  by unfold shiftLeft; split <;> rfl

/-! ### `autoShift`: only the window changes -/

@[simp] theorem autoShift_config (s : State) : (autoShift s).config = s.config := by unfold autoShift; split <;> simp
@[simp] theorem autoShift_ddram (s : State) : (autoShift s).ddram = s.ddram := by unfold autoShift; split <;> simp
@[simp] theorem autoShift_cgram (s : State) : (autoShift s).cgram = s.cgram := by unfold autoShift; split <;> simp
@[simp] theorem autoShift_ac (s : State) : (autoShift s).ac = s.ac := by unfold autoShift; split <;> simp
@[simp] theorem autoShift_em (s : State) : (autoShift s).em = s.em := by unfold autoShift; split <;> simp
@[simp] theorem autoShift_sm (s : State) : (autoShift s).sm = s.sm := by unfold autoShift; split <;> simp
@[simp] theorem autoShift_rs (s : State) : (autoShift s).rs = s.rs := by unfold autoShift; split <;> simp
@[simp] theorem autoShift_rw (s : State) : (autoShift s).rw = s.rw := by unfold autoShift; split <;> simp
@[simp] theorem autoShift_enp (s : State) : (autoShift s).enp = s.enp := by unfold autoShift; split <;> simp
@[simp] theorem autoShift_d (s : State) : (autoShift s).d = s.d := by unfold autoShift; split <;> simp
@[simp] theorem autoShift_c (s : State) : (autoShift s).c = s.c := by unfold autoShift; split <;> simp
@[simp] theorem autoShift_b (s : State) : (autoShift s).b = s.b := by unfold autoShift; split <;> simp
@[simp] theorem autoShift_host (s : State) : (autoShift s).host = s.host := by unfold autoShift; split <;> simp
@[simp] theorem autoShift_sink (s : State) : (autoShift s).sink = s.sink := by unfold autoShift; split <;> simp
@[simp] theorem autoShift_replies (s : State) : (autoShift s).replies = s.replies :=
  by unfold autoShift; split <;> simp

/-! ### `writeData`: the target cell, the window and the address counter change -/

@[simp] theorem writeData_config (s : State) (v : Byte) : (writeData s v).config = s.config := by simp [writeData]
@[simp] theorem writeData_ddram (s : State) (v : Byte) : (writeData s v).ddram = s.ddram.write (cellAddr s.config s.ac) (setChar s v) :=
  by simp [writeData]
@[simp] theorem writeData_cgram (s : State) (v : Byte) : (writeData s v).cgram = s.cgram := by simp [writeData]
@[simp] theorem writeData_ac (s : State) (v : Byte) : (writeData s v).ac = nextAC s.config s.em s.ac :=
  by simp [writeData]
@[simp] theorem writeData_em (s : State) (v : Byte) : (writeData s v).em = s.em := by simp [writeData]
@[simp] theorem writeData_sm (s : State) (v : Byte) : (writeData s v).sm = s.sm := by simp [writeData]
@[simp] theorem writeData_rs (s : State) (v : Byte) : (writeData s v).rs = s.rs := by simp [writeData]
@[simp] theorem writeData_rw (s : State) (v : Byte) : (writeData s v).rw = s.rw := by simp [writeData]
@[simp] theorem writeData_enp (s : State) (v : Byte) : (writeData s v).enp = s.enp := by simp [writeData]
@[simp] theorem writeData_d (s : State) (v : Byte) : (writeData s v).d = s.d := by simp [writeData]
@[simp] theorem writeData_c (s : State) (v : Byte) : (writeData s v).c = s.c := by simp [writeData]
@[simp] theorem writeData_b (s : State) (v : Byte) : (writeData s v).b = s.b := by simp [writeData]
@[simp] theorem writeData_host (s : State) (v : Byte) : (writeData s v).host = s.host := by simp [writeData]
@[simp] theorem writeData_sink (s : State) (v : Byte) : (writeData s v).sink = s.sink := by simp [writeData]
@[simp] theorem writeData_replies (s : State) (v : Byte) : (writeData s v).replies = s.replies := by simp [writeData]

/-- The window after a data write is the window after its auto-shift. -/
theorem writeData_window (s : State) (v : Byte) :
    (writeData s v).ws = (autoShift s).ws ∧ (writeData s v).we = (autoShift s).we := by
  cases h : s.sm <;> simp [writeData, autoShift, h]
  exact ⟨rfl, rfl⟩

/-- What a data write does, whole. -/
theorem writeData_eq (s : State) (v : Byte) :
    writeData s v =
      { s with
        ddram := s.ddram.write (cellAddr s.config s.ac) (setChar s v)
        ws := (autoShift s).ws
        we := (autoShift s).we
        ac := nextAC s.config s.em s.ac } := by
  apply State.ext <;> simp [writeData_window]

/-! ### `clearDisplay` -/

theorem mem_cellOrder (p : Config) (k : Bank) (o : Nat) : (k, o) ∈ cellOrder p ↔ o < p.totalColumns := by
  cases k <;> simp [cellOrder]

/-- The cells `clearDisplay` writes, one after the other, as one write of DDRAM. -/
theorem foldl_setCell_zero (l : List (Bank × Nat)) (s : State) :
    l.foldl (fun t x => t.setCell x.1 x.2 (setChar t 0)) s =
      { s with ddram := l.foldl (fun m x => Memory.write m (encodeAddr s.config x.1 x.2) (setChar s 0)) s.ddram } := by
  induction l generalizing s with
  | nil => rfl
  | cons x l ih =>
    simp only [List.foldl_cons, ih, setCell_config, setCell_ddram]
    rw [setChar_congr s _ 0 (setCell_cgram ..) (setCell_config ..)]
    rfl

/-- DDRAM after `clearDisplay`. -/
def clearedMemory (s : State) : Memory :=
  (cellOrder s.config).foldl (fun m x => Memory.write m (encodeAddr s.config x.1 x.2) (setChar s 0)) s.ddram

/-- What `clearDisplay` does, whole. -/
theorem clearDisplay_eq (s : State) :
    clearDisplay s = { s with ddram := clearedMemory s, ac := s.config.acDefault } := by
  simp only [clearDisplay, foldl_setCell_zero, clearedMemory]

theorem read_foldl_write (l : List (Bank × Nat)) (addr : Bank × Nat → Nat) (x : Cell) (m : Memory) (a : Nat) :
    (l.foldl (fun m y => Memory.write m (addr y) x) m).read a = if a ∈ l.map addr then x else m.read a := by
  induction l generalizing m with
  | nil => simp
  | cons y l ih =>
    simp only [List.foldl_cons, ih, List.map_cons, List.mem_cons, read_write]
    by_cases h1 : a ∈ l.map addr <;> by_cases h2 : a = addr y <;> simp [h1, h2]

theorem foldl_write_wf (l : List (Bank × Nat)) (addr : Bank × Nat → Nat) (x : Cell) (m : Memory) (hm : m.wf) :
    (l.foldl (fun m y => Memory.write m (addr y) x) m).wf := by
  induction l generalizing m with
  | nil => exact hm
  | cons y l ih => exact ih _ (write_wf m _ x hm)

theorem foldl_write_mapped (p : Config) (l : List (Bank × Nat)) (addr : Bank × Nat → Nat) (x : Cell) (m : Memory)
    (hm : m.mapped p) (hl : ∀ y ∈ l, validAddr p (addr y)) :
    (l.foldl (fun m y => Memory.write m (addr y) x) m).mapped p := by
  induction l generalizing m with
  | nil => exact hm
  | cons y l ih =>
    exact ih _ (write_mapped p m _ x hm (hl y (by simp))) (fun z hz => hl z (by simp [hz]))

/-- Every address of a cell reads as a cleared cell, every other address as before. -/
theorem read_clearedMemory (s : State) (a : Nat) :
    (clearedMemory s).read a =
      if a ∈ (cellOrder s.config).map (fun x => encodeAddr s.config x.1 x.2) then setChar s 0 else s.ddram.read a :=
  read_foldl_write _ (fun x => encodeAddr s.config x.1 x.2) _ _ _

theorem clearedMemory_ok (s : State) (h : s.config.Legal) (hm : s.MemoryOk) :
    (clearedMemory s).wf ∧ (clearedMemory s).mapped s.config := by
  refine ⟨foldl_write_wf _ (fun x => encodeAddr s.config x.1 x.2) _ _ hm.1,
    foldl_write_mapped _ _ (fun x => encodeAddr s.config x.1 x.2) _ _ hm.2 ?_⟩
  rintro ⟨k, o⟩ hy
  exact validAddr_encodeAddr _ h k o ((mem_cellOrder _ k o).1 hy)

@[simp] theorem clearDisplay_config (s : State) : (clearDisplay s).config = s.config := by rw [clearDisplay_eq]
@[simp] theorem clearDisplay_ddram (s : State) : (clearDisplay s).ddram = clearedMemory s := by rw [clearDisplay_eq]
@[simp] theorem clearDisplay_cgram (s : State) : (clearDisplay s).cgram = s.cgram := by rw [clearDisplay_eq]
@[simp] theorem clearDisplay_ac (s : State) : (clearDisplay s).ac = s.config.acDefault := by rw [clearDisplay_eq]
@[simp] theorem clearDisplay_em (s : State) : (clearDisplay s).em = s.em := by rw [clearDisplay_eq]
@[simp] theorem clearDisplay_sm (s : State) : (clearDisplay s).sm = s.sm := by rw [clearDisplay_eq]
@[simp] theorem clearDisplay_ws (s : State) : (clearDisplay s).ws = s.ws := by rw [clearDisplay_eq]
@[simp] theorem clearDisplay_we (s : State) : (clearDisplay s).we = s.we := by rw [clearDisplay_eq]
@[simp] theorem clearDisplay_rs (s : State) : (clearDisplay s).rs = s.rs := by rw [clearDisplay_eq]
@[simp] theorem clearDisplay_rw (s : State) : (clearDisplay s).rw = s.rw := by rw [clearDisplay_eq]
@[simp] theorem clearDisplay_enp (s : State) : (clearDisplay s).enp = s.enp := by rw [clearDisplay_eq]
@[simp] theorem clearDisplay_d (s : State) : (clearDisplay s).d = s.d := by rw [clearDisplay_eq]
@[simp] theorem clearDisplay_c (s : State) : (clearDisplay s).c = s.c := by rw [clearDisplay_eq]
@[simp] theorem clearDisplay_b (s : State) : (clearDisplay s).b = s.b := by rw [clearDisplay_eq]
@[simp] theorem clearDisplay_host (s : State) : (clearDisplay s).host = s.host := by rw [clearDisplay_eq]
@[simp] theorem clearDisplay_sink (s : State) : (clearDisplay s).sink = s.sink := by rw [clearDisplay_eq]
@[simp] theorem clearDisplay_replies (s : State) : (clearDisplay s).replies = s.replies := by rw [clearDisplay_eq]

/-! ### `updateCursor` -/

/-- Row 7 of the cursor's cell after the overlay. -/
def cursorRow (s : State) : Row := if s.b then 0 else fullRow

/-- What `updateCursor` does, whole. -/
theorem updateCursor_eq (s : State) :
    updateCursor s =
      if s.c then
        { s with
          ddram := s.ddram.write (cellAddr s.config s.ac)
            { code := (memRead s s.ac).code, bmp := (memRead s s.ac).bmp.set 7 (cursorRow s) } }
      else s := by
  cases hc : s.c
  · simp [updateCursor, hc]
  · cases hb : s.b <;> apply State.ext <;>
      simp [updateCursor, hc, hb, cursorRow, setCursorBar, toggleCursorBar, memRead_eq]

@[simp] theorem updateCursor_config (s : State) : (updateCursor s).config = s.config :=
  by rw [updateCursor_eq]; split <;> rfl
@[simp] theorem updateCursor_cgram (s : State) : (updateCursor s).cgram = s.cgram :=
  by rw [updateCursor_eq]; split <;> rfl
@[simp] theorem updateCursor_ac (s : State) : (updateCursor s).ac = s.ac := by rw [updateCursor_eq]; split <;> rfl
@[simp] theorem updateCursor_em (s : State) : (updateCursor s).em = s.em := by rw [updateCursor_eq]; split <;> rfl
@[simp] theorem updateCursor_sm (s : State) : (updateCursor s).sm = s.sm := by rw [updateCursor_eq]; split <;> rfl
@[simp] theorem updateCursor_ws (s : State) : (updateCursor s).ws = s.ws := by rw [updateCursor_eq]; split <;> rfl
@[simp] theorem updateCursor_we (s : State) : (updateCursor s).we = s.we := by rw [updateCursor_eq]; split <;> rfl
@[simp] theorem updateCursor_rs (s : State) : (updateCursor s).rs = s.rs := by rw [updateCursor_eq]; split <;> rfl
@[simp] theorem updateCursor_rw (s : State) : (updateCursor s).rw = s.rw := by rw [updateCursor_eq]; split <;> rfl
@[simp] theorem updateCursor_enp (s : State) : (updateCursor s).enp = s.enp := by rw [updateCursor_eq]; split <;> rfl
@[simp] theorem updateCursor_d (s : State) : (updateCursor s).d = s.d := by rw [updateCursor_eq]; split <;> rfl
@[simp] theorem updateCursor_c (s : State) : (updateCursor s).c = s.c := by rw [updateCursor_eq]; split <;> rfl
@[simp] theorem updateCursor_b (s : State) : (updateCursor s).b = s.b := by rw [updateCursor_eq]; split <;> rfl
@[simp] theorem updateCursor_host (s : State) : (updateCursor s).host = s.host :=
  by rw [updateCursor_eq]; split <;> rfl
@[simp] theorem updateCursor_sink (s : State) : (updateCursor s).sink = s.sink :=
  by rw [updateCursor_eq]; split <;> rfl
@[simp] theorem updateCursor_replies (s : State) : (updateCursor s).replies = s.replies :=
  by rw [updateCursor_eq]; split <;> rfl

/-- A data write does not see the latch. -/
theorem writeData_withLatch (s : State) (v : Byte) (x y z : Bool) :
    writeData (s.withLatch x y z) v = (writeData s v).withLatch x y z := by
  have hs : setChar (s.withLatch x y z) v = setChar s v := setChar_congr s _ v rfl rfl
  apply State.ext <;> simp [writeData_window, hs] <;>
    cases h : s.sm <;> simp [autoShift, h] <;> rfl
/-- The cursor overlay does not see the host's remaining calls. -/
theorem updateCursor_withCalls (s : State) (calls : List HostCall) :
    updateCursor (s.withCalls calls) = (updateCursor s).withCalls calls := by
  cases hc : s.c <;> cases hb : s.b <;> apply State.ext <;> simp [updateCursor_eq, hc, hb, cursorRow, memRead_eq]

/-- A data write does not see the host's remaining calls. -/
theorem writeData_withCalls (s : State) (v : Byte) (calls : List HostCall) :
    writeData (s.withCalls calls) v = (writeData s v).withCalls calls := by
  have hs : setChar (s.withCalls calls) v = setChar s v := setChar_congr s _ v rfl rfl
  apply State.ext <;> simp [writeData_window, hs] <;>
    cases h : s.sm <;> simp [autoShift, h] <;> rfl

end Sys2Proof.Machine
end

