-- ==== Sys2Proof/Laws/PerInstr.lean ====
section
/-! SUPPORT. Per-instruction families: facts about an instruction as syntax, one lemma per constructor. -/

namespace Sys2Proof.Laws

open Sys2Proof

/-- The select lines of an instruction's transaction, RS and RW (spec/30_encoding.md R92). -/
def selectLines : Instr → Bool × Bool
  | .clr => (false, false)
  | .shl => (false, false)
  | .shr => (false, false)
  | .nop _ => (false, false)
  | .data _ => (true, false)
  | .read rs _ => (rs, true)

/-- The encoder puts an instruction's select lines at bits 9 and 8. -/
def SelectLines.Statement (i : Instr) : Prop :=
  ∀ o : Opcodes, (wordRS (encode o i), wordRW (encode o i)) = selectLines i

theorem SelectLines.clr : SelectLines.Statement .clr := by intro o; simp [encode, selectLines]
theorem SelectLines.shl : SelectLines.Statement .shl := by intro o; simp [encode, selectLines]
theorem SelectLines.shr : SelectLines.Statement .shr := by intro o; simp [encode, selectLines]
theorem SelectLines.nop (byte : Byte) : SelectLines.Statement (.nop byte) := by intro o; simp [encode, selectLines]
theorem SelectLines.data (v : Byte) : SelectLines.Statement (.data v) := by intro o; simp [encode, selectLines]
theorem SelectLines.read (rs : Bool) (db : Byte) : SelectLines.Statement (.read rs db) := by
  intro o; simp [encode, selectLines]

end Sys2Proof.Laws
end

