-- ==== Sys2Proof/Laws/Step.lean ====
section
/-! SUPPORT. What one instruction, one bus call, one host call and one step can do, said once. -/

namespace Sys2Proof.Machine

open Sys2Proof

/-- The state after an instruction: no instruction faults and none is refused. -/
def instrEffect : Instr → State → State
  | .clr, s => clearDisplay s
  | .shl, s => shiftLeft s
  | .shr, s => shiftRight s
  | .nop _, s => s
  | .data v, s => writeData s v
  | .read _ _, s => s

/-- Every instruction completes, in every state. -/
theorem exec_eq (i : Instr) (s : State) : exec i s = .next (instrEffect i s) := by
  cases i <;> rfl

/-! ### What no instruction writes -/

@[simp] theorem instrEffect_config (i : Instr) (s : State) : (instrEffect i s).config = s.config :=
  by cases i <;> simp [instrEffect]
@[simp] theorem instrEffect_cgram (i : Instr) (s : State) : (instrEffect i s).cgram = s.cgram :=
  by cases i <;> simp [instrEffect]
@[simp] theorem instrEffect_em (i : Instr) (s : State) : (instrEffect i s).em = s.em :=
  by cases i <;> simp [instrEffect]
@[simp] theorem instrEffect_sm (i : Instr) (s : State) : (instrEffect i s).sm = s.sm :=
  by cases i <;> simp [instrEffect]
@[simp] theorem instrEffect_rs (i : Instr) (s : State) : (instrEffect i s).rs = s.rs :=
  by cases i <;> simp [instrEffect]
@[simp] theorem instrEffect_rw (i : Instr) (s : State) : (instrEffect i s).rw = s.rw :=
  by cases i <;> simp [instrEffect]
@[simp] theorem instrEffect_enp (i : Instr) (s : State) : (instrEffect i s).enp = s.enp :=
  by cases i <;> simp [instrEffect]
@[simp] theorem instrEffect_d (i : Instr) (s : State) : (instrEffect i s).d = s.d :=
  by cases i <;> simp [instrEffect]
@[simp] theorem instrEffect_c (i : Instr) (s : State) : (instrEffect i s).c = s.c :=
  by cases i <;> simp [instrEffect]
@[simp] theorem instrEffect_b (i : Instr) (s : State) : (instrEffect i s).b = s.b :=
  by cases i <;> simp [instrEffect]
@[simp] theorem instrEffect_host (i : Instr) (s : State) : (instrEffect i s).host = s.host :=
  by cases i <;> simp [instrEffect]
@[simp] theorem instrEffect_sink (i : Instr) (s : State) : (instrEffect i s).sink = s.sink :=
  by cases i <;> simp [instrEffect]
@[simp] theorem instrEffect_replies (i : Instr) (s : State) : (instrEffect i s).replies = s.replies :=
  by cases i <;> simp [instrEffect]

/-- The state after a bus call (spec/42_bus_latch.md R160). -/
def busEffect (rs rw en : Bool) (db : Byte) (s : State) : State :=
  { (if fallingEdge s en then instrEffect (fetch s rs rw db) (recordLines rs rw s) else recordLines rs rw s) with
    enp := en }

/-- Every bus call completes, in every state. -/
theorem handleBusEdge_eq (rs rw en : Bool) (db : Byte) (s : State) :
    handleBusEdge rs rw en db s = .next (busEffect rs rw en db s) := by
  simp only [handleBusEdge, busEffect, exec_eq]
  cases fallingEdge s en <;> rfl

theorem busEffect_of_not_falling (rs rw en : Bool) (db : Byte) (s : State) (h : fallingEdge s en = false) :
    busEffect rs rw en db s = s.withLatch rs rw en := by
  simp [busEffect, h, recordLines, State.withLatch]

theorem busEffect_of_falling (rs rw en : Bool) (db : Byte) (s : State) (h : fallingEdge s en = true) :
    busEffect rs rw en db s =
      { instrEffect (fetch s rs rw db) (recordLines rs rw s) with enp := en } := by
  simp only [busEffect, h, if_true]

/-! ### What no bus call writes -/

@[simp] theorem busEffect_config (rs rw en : Bool) (db : Byte) (s : State) : (busEffect rs rw en db s).config = s.config :=
  by simp only [busEffect]; split <;> simp
@[simp] theorem busEffect_cgram (rs rw en : Bool) (db : Byte) (s : State) : (busEffect rs rw en db s).cgram = s.cgram :=
  by simp only [busEffect]; split <;> simp
@[simp] theorem busEffect_em (rs rw en : Bool) (db : Byte) (s : State) : (busEffect rs rw en db s).em = s.em :=
  by simp only [busEffect]; split <;> simp
@[simp] theorem busEffect_sm (rs rw en : Bool) (db : Byte) (s : State) : (busEffect rs rw en db s).sm = s.sm :=
  by simp only [busEffect]; split <;> simp
@[simp] theorem busEffect_rs (rs rw en : Bool) (db : Byte) (s : State) : (busEffect rs rw en db s).rs = rs :=
  by simp only [busEffect]; split <;> simp
@[simp] theorem busEffect_rw (rs rw en : Bool) (db : Byte) (s : State) : (busEffect rs rw en db s).rw = rw :=
  by simp only [busEffect]; split <;> simp
@[simp] theorem busEffect_enp (rs rw en : Bool) (db : Byte) (s : State) : (busEffect rs rw en db s).enp = en := rfl
@[simp] theorem busEffect_d (rs rw en : Bool) (db : Byte) (s : State) : (busEffect rs rw en db s).d = s.d :=
  by simp only [busEffect]; split <;> simp
@[simp] theorem busEffect_c (rs rw en : Bool) (db : Byte) (s : State) : (busEffect rs rw en db s).c = s.c :=
  by simp only [busEffect]; split <;> simp
@[simp] theorem busEffect_b (rs rw en : Bool) (db : Byte) (s : State) : (busEffect rs rw en db s).b = s.b :=
  by simp only [busEffect]; split <;> simp
@[simp] theorem busEffect_host (rs rw en : Bool) (db : Byte) (s : State) : (busEffect rs rw en db s).host = s.host :=
  by simp only [busEffect]; split <;> simp
@[simp] theorem busEffect_sink (rs rw en : Bool) (db : Byte) (s : State) : (busEffect rs rw en db s).sink = s.sink :=
  by simp only [busEffect]; split <;> simp
@[simp] theorem busEffect_replies (rs rw en : Bool) (db : Byte) (s : State) : (busEffect rs rw en db s).replies = s.replies :=
  by simp only [busEffect]; split <;> simp

/-- What one host call can do when it answers a next state: one case per port. -/
inductive Served : HostCall → State → State → Prop
  | edge (rs rw en : Bool) (db : Byte) (s : State) : Served (.edge rs rw en db) s (busEffect rs rw en db s)
  | sendData (v : Byte) (s : State) : Served (.sendData v) s (writeData s v)
  | refresh (s : State) : Served .refresh s (updateCursor (render s))
  | render (s : State) : Served .render s (render s)
  | updateCursor (s : State) : Served .updateCursor s (updateCursor s)
  | customGlyph (slot : Nat) (g : Bitmap) (s : State) (h : slot < 8) :
      Served (.writeCustomGlyph slot g) s { s with cgram := s.cgram.set slot g }
  | customGlyphIgnored (slot : Nat) (g : Bitmap) (s : State) (h : ¬ slot < 8) (hp : s.config.slotOor = .ignore) :
      Served (.writeCustomGlyph slot g) s s
  | preset (f : PresetFields) (s : State) (h : presetLegal s.config f = true) :
      Served (.preset f) s { s with
        ac := f.ac.getD s.ac
        em := (f.em.map entryModeOfPort).getD s.em
        sm := (f.sm.bind shiftModeOfPort).getD s.sm
        d := f.d.getD s.d
        c := f.c.getD s.c
        b := f.b.getD s.b }
  | queryCell (n o : Nat) (k : Bank) (s : State) (hk : bankOfNat n = some k) (ho : o < s.config.totalColumns) :
      Served (.queryCell n o) s (answer (.cell (s.cell k o).code (s.cell k o).bmp) s)
  | queryGlyph (slot : Nat) (s : State) (h : slot < 8) :
      Served (.queryGlyph slot) s (answer (.glyph s.cgram[slot]) s)
  | queryRegs (s : State) : Served .queryRegs s (answer (.regs (regsReply s)) s)

/-- The inversion of `serve`. -/
theorem served_of_serve (call : HostCall) (s t : State) (h : serve call s = .next t) : Served call s t := by
  cases call with
  | edge rs rw en db =>
    simp only [serve, handleBusEdge_eq, Host.Outcome.next.injEq] at h
    exact h ▸ .edge rs rw en db s
  | sendData v => simp only [serve, sendData, Host.Outcome.next.injEq] at h; exact h ▸ .sendData v s
  | refresh => simp only [serve, Machine.refresh, Host.Outcome.next.injEq] at h; exact h ▸ .refresh s
  | render => simp only [serve, Host.Outcome.next.injEq] at h; exact h ▸ .render s
  | updateCursor => simp only [serve, Host.Outcome.next.injEq] at h; exact h ▸ .updateCursor s
  | writeCustomGlyph slot g =>
    simp only [serve, writeCustomGlyph] at h
    split at h
    · rename_i hs
      simp only [Host.Outcome.next.injEq] at h; exact h ▸ .customGlyph slot g s hs
    · rename_i hs
      cases hp : s.config.slotOor <;> simp only [hp, raiseViolation, Host.Outcome.next.injEq, reduceCtorEq] at h
      exact h ▸ .customGlyphIgnored slot g s hs hp
  | preset f =>
    simp only [serve, preset] at h
    split at h
    · rename_i hl
      simp only [Host.Outcome.next.injEq] at h; exact h ▸ .preset f s hl
    · simp only [raiseViolation, reduceCtorEq] at h
  | queryCell n o =>
    simp only [serve, queryCell] at h
    split at h
    · rename_i k hk
      split at h
      · rename_i ho
        simp only [Host.Outcome.next.injEq] at h; exact h ▸ .queryCell n o k s hk ho
      · simp only [raiseViolation, reduceCtorEq] at h
    · simp only [raiseViolation, reduceCtorEq] at h
  | queryGlyph slot =>
    simp only [serve, queryGlyph] at h
    split at h
    · rename_i hs
      simp only [Host.Outcome.next.injEq] at h; exact h ▸ .queryGlyph slot s hs
    · simp only [raiseViolation, reduceCtorEq] at h
  | queryRegs => simp only [serve, queryRegs, Host.Outcome.next.injEq] at h; exact h ▸ .queryRegs s

theorem step_of_nil (s : State) (h : s.host = []) : step s = .next s := by
  simp only [step, serveNext, h]

theorem step_of_cons (s : State) (call : HostCall) (rest : List HostCall) (h : s.host = call :: rest) :
    step s = serve call (s.withCalls rest) := by
  simp only [step, serveNext, h]; rfl

/-- What one step can do: nothing when the host has no call to make, else what the call does. -/
theorem step_cases (s t : State) (h : step s = .next t) :
    (s.host = [] ∧ t = s) ∨ ∃ call rest, s.host = call :: rest ∧ Served call (s.withCalls rest) t := by
  cases hh : s.host with
  | nil =>
    rw [step_of_nil s hh, Host.Outcome.next.injEq] at h
    exact .inl ⟨rfl, h.symm⟩
  | cons call rest =>
    rw [step_of_cons s call rest hh] at h
    exact .inr ⟨call, rest, rfl, served_of_serve call _ t h⟩

@[simp] theorem runSteps_zero (s : State) : runSteps 0 s = .next s := rfl

theorem runSteps_succ (k : Nat) (s t : State) (h : step s = .next t) : runSteps (k + 1) s = runSteps k t := by
  simp only [runSteps, h]

/-- `runSteps` is the run of the host's interface. -/
theorem runSteps_eq_core (k : Nat) (s : State) : runSteps k s = core.run k s := by
  induction k generalizing s with
  | zero => rfl
  | succ k ih =>
    cases hs : step s with
    | next t =>
      have hc : core.step s = .next t := hs
      simp only [runSteps, hs, Host.Core.run, hc, ih]
      rfl
    | fault r =>
      have hc : core.step s = .fault r := hs
      simp only [runSteps, hs, Host.Core.run, hc]
      rfl
    | refused r =>
      have hc : core.step s = .refused r := hs
      simp only [runSteps, hs, Host.Core.run, hc]
      rfl

end Sys2Proof.Machine
end

