-- ==== Sys2Proof/Tests/Slice0.lean ====
section
/-! SUPPORT. Tests, each one step on a small state, with the results taken from spec/95_test_vectors.md and the rules'
own examples; the smoke test of well-formedness; and, for each statement with hypotheses, a state and operands that meet
them. -/

namespace Sys2Proof.Tests

open Sys2Proof Sys2Proof.Machine

/-! ### Helpers -/

/-- The reset state with these calls left to make. -/
def calling (calls : List HostCall) : State := { State.reset with host := calls }

/-- The reset state with EN seen high and one falling edge left to make. -/
def falling (rs rw : Bool) (db : Byte) : State := { calling [.edge rs rw false db] with enp := true }

/-- Whether one step answers a next state that passes a check. -/
def stepGives (s : State) (check : State → Bool) : Bool :=
  match step s with
  | .next t => check t
  | .fault _ => false
  | .refused _ => false

/-- Whether one step faults with this violation. -/
def stepFaults (s : State) (v : Violation) : Bool :=
  match step s with
  | .next _ => false
  | .fault (.contractViolation w) => w = v
  | .refused _ => false

/-- Whether a construction is refused. -/
def constructRefused (p : Config) : Bool :=
  match State.construct p with
  | .next _ => false
  | .fault _ => false
  | .refused _ => true

/-- The glyph of spec/95_test_vectors.md V-G6. -/
def glyph : Bitmap := #v[1, 2, 3, 4, 5, 6, 7, 10]

/-- The CGROM of spec/95_test_vectors.md E2 and V-W26. -/
def romA : Config :=
  { Config.default with cgrom := [(0x41, #v[14, 17, 17, 31, 17, 17, 17, 0])] }

/-- The default parameters with `DEC_UNDERFLOW = free_run`. -/
def freeRun : Config := { Config.default with decUnderflow := .freeRun }

/-- A `Preset` that names no register. -/
def noFields : PresetFields where
  ac := none
  em := none
  sm := none
  d := none
  c := none
  b := none

/-! ### Well-formedness: each check refuses an ill-formed term -/

theorem test_wellFormed_refuses_clear_as_nop : (Instr.nop 0x01).wellFormed Opcodes.default = false := by decide
theorem test_wellFormed_refuses_shiftLeft_as_nop : (Instr.nop 0x18).wellFormed Opcodes.default = false := by decide
theorem test_wellFormed_refuses_shiftRight_as_nop : (Instr.nop 0x1C).wellFormed Opcodes.default = false := by decide
theorem test_wellFormed_accepts_nop : (Instr.nop 0x19).wellFormed Opcodes.default = true := by decide

/-! ### Decoding: words written out bit by bit (spec/30_encoding.md R91 to R94, spec/95_test_vectors.md V-T1 to V-T14) -/

theorem test_decode_clr : decodeWord Opcodes.default 0b00_0000_0001 = .clr := by decide
theorem test_decode_shl : decodeWord Opcodes.default 0b00_0001_1000 = .shl := by decide
theorem test_decode_shr : decodeWord Opcodes.default 0b00_0001_1100 = .shr := by decide
theorem test_decode_nop : decodeWord Opcodes.default 0b00_0001_1001 = .nop 0x19 := by decide
theorem test_decode_data : decodeWord Opcodes.default 0b10_0000_0001 = .data 0x01 := by decide
theorem test_decode_read : decodeWord Opcodes.default 0b01_0000_0001 = .read false 0x01 := by decide
theorem test_decode_read_rs : decodeWord Opcodes.default 0b11_0100_0001 = .read true 0x41 := by decide
theorem test_decode_bytes : decodeBytes Opcodes.default [0x41, 0x02, 0x18] = .ok (.data 0x41, [0x18]) := by decide
theorem test_decode_no_such_line : decodeBytes Opcodes.default [0x41, 0x06] = .error (.noSuchLine 0x06) := by decide

/-! ### Instructions, at most two tests each -/

/-- V-I1. -/
theorem test_shr : stepGives (falling false false 0x1C) (fun t => t.ws = 11 && t.we = 26 && t.ac = 0x0C) = true := by
  decide

/-- V-I5, the clamp. -/
theorem test_shr_clamped :
    stepGives { falling false false 0x1C with ws := 0, we := 15 } (fun t => t.ws = 0 && t.we = 15) = true := by decide

/-- V-I2. -/
theorem test_shl : stepGives (falling false false 0x18) (fun t => t.ws = 13 && t.we = 28) = true := by decide

/-- V-I7, the clamp. -/
theorem test_shl_clamped :
    stepGives { falling false false 0x18 with ws := 24, we := 39 } (fun t => t.ws = 24 && t.we = 39) = true := by decide

/-- V-I11: the last cell of bank 1 takes the current glyph 0. -/
theorem test_clr_uses_glyph_0 :
    stepGives { falling false false 0x01 with cgram := State.reset.cgram.set 0 #v[0, 0, 0, 0, 0, 0, 0, 21], ac := 0x40 }
      (fun t => t.cell .bank1 39 = { code := 0, bmp := #v[0, 0, 0, 0, 0, 0, 0, 21] } && t.ac = 0x0C) = true := by
  decide +kernel

/-- V-I12: the window stays where the shifts put it, and a written cell is cleared. -/
theorem test_clr_keeps_the_window :
    stepGives { falling false false 0x01 with
        ws := 9, we := 24, ddram := [(0x0C, { code := 0x41, bmp := Bitmap.zero })], ac := 0x0D }
      (fun t => t.ddram = [] && t.ws = 9 && t.we = 24 && t.ac = 0x0C) = true := by decide +kernel

/-- V-I14. -/
theorem test_nop :
    stepGives (falling false false 0x19) (fun t => t = { State.reset with rs := false, rw := false }) = true := by decide

/-- V-W4 and V-W16: the store, and the wrap from bank 0's end. -/
theorem test_data_wraps :
    stepGives { falling true false 0x41 with ac := 0x27 }
      (fun t => (t.cell .bank0 39).code = 0x41 && t.ac = 0x40 && t.ws = 12 && t.rs) = true := by decide

/-- V-W24: an invalid AC writes cell (0, 0) and steps on without relocation. -/
theorem test_data_at_invalid_ac :
    stepGives { falling true false 0x5A with ac := 0x30 }
      (fun t => (t.cell .bank0 0).code = 0x5A && t.ac = 0x31) = true := by decide

/-- V-B8. -/
theorem test_read :
    stepGives (falling true true 0x41) (fun t => t = { State.reset with rs := true, rw := true }) = true := by decide

/-! ### The bus latch -/

/-- V-B7: the first call after reset is no falling edge. -/
theorem test_first_low_call_does_nothing :
    stepGives (calling [.edge true false false 69]) (fun t => t = { State.reset with rs := true }) = true := by decide

/-- R172: a rising edge only records the lines. -/
theorem test_rising_edge_records :
    stepGives (calling [.edge true false true 69]) (fun t => t = { State.reset with rs := true, enp := true }) = true := by
  decide

/-! ### Address map and address counter: V-D1 to V-D9, V-W6 to V-W15 -/

theorem test_decodeAddr :
    decodeAddr Config.default 0x0C = (.bank0, 12) ∧ decodeAddr Config.default 0x27 = (.bank0, 39) ∧
    decodeAddr Config.default 0x28 = (.bank0, 0) ∧ decodeAddr Config.default 0x40 = (.bank1, 0) ∧
    decodeAddr Config.default 0x67 = (.bank1, 39) ∧ decodeAddr Config.default 0x7F = (.bank0, 0) := by decide

theorem test_nextAC_increment :
    nextAC Config.default .increment 0x26 = 0x27 ∧ nextAC Config.default .increment 0x27 = 0x40 ∧
    nextAC Config.default .increment 0x67 = 0x00 ∧ nextAC Config.default .increment 0x3F = 0x40 ∧
    nextAC Config.default .increment 0x7F = 0x00 := by decide

theorem test_nextAC_decrement :
    nextAC Config.default .decrement 0x01 = 0x00 ∧ nextAC Config.default .decrement 0x00 = 0x67 ∧
    nextAC freeRun .decrement 0x00 = 0x7F ∧ nextAC Config.default .decrement 0x40 = 0x27 ∧
    nextAC Config.default .decrement 0x68 = 0x67 := by decide

/-! ### Host ports -/

/-- V-F2: the whole data write, right to left with auto-shift, and no latch. -/
theorem test_sendData :
    stepGives { calling [.sendData 0x41] with sm := .right, em := .decrement, enp := true }
      (fun t => (t.cell .bank0 12).code = 0x41 && t.ws = 11 && t.we = 26 && t.ac = 0x0B && t.enp) = true := by decide

/-- V-W26: a code with a CGROM entry. -/
theorem test_sendData_resolves_rom :
    stepGives { State.initial romA with host := [.sendData 0x41] }
      (fun t => t.cell .bank0 12 = { code := 0x41, bmp := #v[14, 17, 17, 31, 17, 17, 17, 0] }) = true := by decide

/-- V-R14: the frame is the codes, and then the bar is drawn. -/
theorem test_refresh :
    stepGives { calling [.refresh] with c := true, ac := 0x0D, ddram := [(0x0C, { code := 65, bmp := Bitmap.zero })] }
      (fun t => t.sink = [{ row0 := 65 :: List.replicate 15 0, row1 := List.replicate 16 0 }] &&
        (t.cell .bank0 13).bmp = #v[0, 0, 0, 0, 0, 0, 0, 31]) = true := by decide

/-- V-R2 and V-R3. -/
theorem test_render :
    stepGives { calling [.render] with
        ws := 11, we := 26, ddram := [(0x0C, { code := 72, bmp := Bitmap.zero }), (0x0D, { code := 73, bmp := Bitmap.zero })] }
      (fun t => t.sink = [{ row0 := [0, 72, 73] ++ List.replicate 13 0, row1 := List.replicate 16 0 }]) = true := by decide

/-- V-R6: with blink on row 7 ends at zero, whatever it was. -/
theorem test_updateCursor_blink :
    stepGives { calling [.updateCursor] with c := true, b := true, ddram := [(0x0C, { code := 3, bmp := glyph })] }
      (fun t => t.cell .bank0 12 = { code := 3, bmp := #v[1, 2, 3, 4, 5, 6, 7, 0] }) = true := by decide

/-- V-R13: blink without the cursor does nothing. -/
theorem test_updateCursor_off :
    stepGives { calling [.updateCursor] with b := true } (fun t => t = { State.reset with b := true }) = true := by decide

/-- V-G6 in one step: the glyph changes, the cells do not. -/
theorem test_writeCustomGlyph :
    stepGives { calling [.writeCustomGlyph 3 glyph] with ddram := [(0x0C, { code := 3, bmp := Vector.replicate 8 31 })] }
      (fun t => resolve t 3 = glyph && (t.cell .bank0 12).bmp = Vector.replicate 8 31) = true := by decide

/-- V-G5. -/
theorem test_writeCustomGlyph_out_of_range :
    stepFaults (calling [.writeCustomGlyph 8 glyph]) (.customGlyphSlot 8) = true := by decide

/-- V-F3. -/
theorem test_preset_refuses_gap :
    stepFaults (calling [.preset { noFields with ac := some 0x28 }]) (.preset { noFields with ac := some 0x28 }) = true := by
  decide

/-- V-F4. -/
theorem test_preset_refuses_sm_3 :
    stepFaults (calling [.preset { noFields with sm := some 3 }]) (.preset { noFields with sm := some 3 }) = true := by decide

/-- V-I13's preset. -/
theorem test_preset :
    stepGives (calling [.preset { noFields with em := some false, sm := some 1, c := some true, b := some true, d := some false }])
      (fun t => t = { State.reset with em := .decrement, sm := .left, c := true, b := true, d := false }) = true := by decide

/-- V-F5. -/
theorem test_queryRegs :
    stepGives (calling [.queryRegs]) (fun t => t.replies =
      [.regs { ac := 0x0C, em := true, sm := 0, ws := 12, we := 27, d := true, c := false, b := false, rs := false, rw := false }])
      = true := by decide

/-- R266. -/
theorem test_queryCell_out_of_range : stepFaults (calling [.queryCell 0 40]) (.queryCell 0 40) = true := by decide

/-! ### Construction: V-X2 to V-X7 -/

theorem test_construct_window :
    (State.initial { Config.default with visibleColumns := 20 }).ws = 10 ∧
    (State.initial { Config.default with visibleColumns := 40 }).we = 39 ∧
    (State.initial { Config.default with totalColumns := 20 }).ac = 0x02 ∧
    (State.initial { Config.default with visibleColumns := 15 }).we = 26 ∧
    (State.initial { Config.default with totalColumns := 64 }).ac = 0x18 := by decide

theorem test_construct_refuses_overlap : constructRefused { Config.default with totalColumns := 65 } = true := by decide

/-! ### Witnesses: what meets each statement's hypotheses -/

theorem witness_DecodeOfEncodeIsTheInstruction :
    Opcodes.default.Distinct ∧ (Instr.nop 0xFF).wellFormed Opcodes.default = true := by decide

theorem witness_FirstLevelDecodeTestsRwFirst :
    (0x0FF#10).toNat ≤ 0x0FF ∧ 0x200 ≤ (0x2FF#10).toNat ∧ (0x2FF#10).toNat ≤ 0x2FF ∧ 0x100 ≤ (0x1FF#10).toNat ∧
    (0x1FF#10).toNat ≤ 0x1FF ∧ 0x300 ≤ (0x300#10).toNat ∧ (0x300#10).toNat ≤ 0x3FF := by decide

theorem witness_TableWordIsTheTransactionWord :
    (10 ≤ 10 ∧ 1023 < 1024) ∧ (1024 ≤ 1024 ∧ 1024 < 65536) ∧ (1024 ≤ 65535 ∧ 65535 < 65536) ∧ 4 ≤ (4 : Byte).toNat := by
  decide

theorem witness_StepRunsTheDecodedInstruction :
    (falling true false 0x41).host = [.edge true false false 0x41] ∧ (falling true false 0x41).enp = true ∧
    decodeWord (falling true false 0x41).config.opcodes (packWord true false 0x41) = .data 0x41 := by decide

theorem witness_FetchWordRunsTheTableInstruction :
    State.reset.config.opcodes = Opcodes.default ∧ decodeTableWord 16 0x341 = some (.read true 0x41) := by decide

theorem witness_BusCallIsTheDocumentsProcedure :
    (falling false true 0x41).host = .edge false true false 0x41 :: [] ∧
    (calling [.edge true false true 0x41]).host = .edge true false true 0x41 :: [] := by decide

theorem witness_EveryBusCallRecordsItsLines :
    (calling [.edge true true false 0]).host = [.edge true true false 0] ∧
    ¬ ((calling [.edge true true false 0]).enp = true ∧ false = false) := by decide

theorem witness_PulsesWriteOncePerFallingEdge : [true, true, false] ≠ [] ∧ countFalling false [true, true, false] = 1 := by
  decide

theorem witness_WindowShiftsSaturate :
    State.reset.config.Legal ∧ State.reset.WindowOk ∧ { State.reset with ws := 24, we := 39 }.WindowOk ∧
    24 = State.reset.config.totalColumns - State.reset.config.visibleColumns := by decide

theorem witness_ClrClearsEveryCell :
    39 < State.reset.config.totalColumns ∧
    ∀ k : Bank, ∀ o < State.reset.config.totalColumns, 0x28 ≠ encodeAddr State.reset.config k o := by
  refine ⟨by decide, fun k o ho => ?_⟩
  have ho : o < 40 := ho
  cases k <;> simp [encodeAddr, State.reset, State.initial, Config.default] <;> omega

theorem witness_ClrRestoresTheBlankMemory :
    { State.reset with ddram := [(0x67, { code := 1, bmp := Bitmap.zero })] }.MemoryOk ∧
    State.reset.config.Legal ∧ State.reset.cgram[0] = Bitmap.zero := by decide

theorem witness_NopChangesNothing :
    (0x38 : Byte) ≠ State.reset.config.opcodes.clear ∧ (0x38 : Byte) ≠ State.reset.config.opcodes.shiftLeft ∧
    (0x38 : Byte) ≠ State.reset.config.opcodes.shiftRight ∧
    (falling false false 0x38).host = [.edge false false false 0x38] ∧ Opcodes.default.Distinct := by decide

theorem witness_ReadStubChangesOnlyTheLatch :
    (falling true true 0xFF).host = [.edge true true false 0xFF] ∧ (falling true true 0xFF).enp = true := by decide

theorem witness_DataWriteStoresOneCell :
    State.reset.sm = .none ∧ { State.reset with sm := .right, ws := 0, we := 15 }.sm = .right ∧
    { State.reset with sm := .left, ws := 24, we := 39 }.sm = .left := by decide

theorem witness_InvalidAddressReachesTheFirstCell :
    (0x00 ≤ 0x27 ∧ 0x27 ≤ Config.default.bank0End) ∧ ¬ (0x00 ≤ 0x67 ∧ 0x67 ≤ Config.default.bank0End) ∧
    (0x40 ≤ 0x67 ∧ 0x67 ≤ Config.default.bank1End) ∧ ¬ validAddr Config.default 0x3F ∧
    ¬ { calling [.updateCursor] with ac := 0x68, c := true }.AcOk ∧
    { calling [.updateCursor] with ac := 0x68, c := true }.c = true ∧
    { calling [.updateCursor] with ac := 0x68, c := true }.host = [.updateCursor] := by decide

theorem witness_AddressMapRoundTrips :
    Config.default.Legal ∧ 39 < Config.default.totalColumns ∧ validAddr Config.default 0x67 ∧
    ¬ validAddr Config.default 0x28 := by decide

theorem witness_IncrementWrapsAtTheBankEnds :
    State.reset.config.Legal ∧ State.reset.em = .increment ∧ 0x27 = State.reset.config.bank0End ∧
    0x67 = State.reset.config.bank1End := by decide

theorem witness_DecrementWrapsAtTheBankStarts :
    freeRun.Legal ∧ { State.initial freeRun with em := .decrement }.em = .decrement ∧
    0x40 = State.reset.config.bank1Base ∧ 0x00 = State.reset.config.bank0Base ∧
    State.reset.config.decUnderflow = .wrapToBank1End ∧ freeRun.decUnderflow = .freeRun := by decide

theorem witness_AddressCounterStepsByOne :
    { State.reset with ac := 0x26 }.AcOk ∧ State.reset.em = .increment ∧ 0x26 ≠ Config.default.bank0End ∧
    0x26 ≠ Config.default.bank1End ∧ { State.reset with ac := 0x41, em := .decrement }.AcOk ∧
    0x41 ≠ Config.default.bank0Base ∧ 0x41 ≠ Config.default.bank1Base := by decide

theorem witness_InvalidAddressStepsModulo :
    ¬ { State.reset with ac := 0x7F }.AcOk ∧ State.reset.em = .increment ∧
    ¬ { State.reset with ac := 0x68, em := .decrement }.AcOk := by decide

theorem witness_AddressEngineIsAPermutation :
    Config.default.Legal ∧ Config.default.decUnderflow = .wrapToBank1End ∧ validAddr Config.default 0x67 := by decide

theorem witness_WritesAdvanceAlongTheCycle :
    State.reset.config.Legal ∧ State.reset.AcOk ∧ State.reset.em = .increment ∧
    { State.reset with em := .decrement, ac := 0x00 }.AcOk ∧ State.reset.config.decUnderflow = .wrapToBank1End := by decide

theorem witness_WritesVisitEveryCellInOrder :
    { State.reset with ac := 0x00 }.ac = State.reset.config.bank0Base ∧ State.reset.em = .increment ∧
    (List.replicate 80 (0x30 : Byte)).length = 2 * State.reset.config.totalColumns ∧
    (List.replicate 40 (0x30 : Byte)).length = State.reset.config.totalColumns := by
  simp [State.reset, State.initial, Config.default]

theorem witness_ResolveChoosesTheGlyphMemory :
    (7 : Byte).toNat < 8 ∧ 8 ≤ (8 : Byte).toNat ∧ romGlyph romA.cgrom 0x41 = some #v[14, 17, 17, 31, 17, 17, 17, 0] ∧
    romGlyph romA.cgrom 8 = none := by decide

theorem witness_CustomGlyphWriteIsVisibleAtOnce :
    (7 : Byte).toNat < 8 ∧ 7 < 8 ∧
    (calling [.writeCustomGlyph 7 glyph]).host = [.writeCustomGlyph 7 glyph] := by decide

theorem witness_OutOfRangeSlotIsTheHostsFault :
    8 ≤ 8 ∧ (calling [.writeCustomGlyph 8 glyph]).host = [.writeCustomGlyph 8 glyph] ∧
    Config.default.slotOor = .failFast ∧ { Config.default with slotOor := .ignore }.slotOor = .ignore := by decide

theorem witness_GlyphsAreCopiedIntoCells :
    stepGives (calling [.writeCustomGlyph 3 glyph]) (fun t => t.ddram = []) = true ∧
    (calling [.updateCursor]).host = [.updateCursor] := by decide

theorem witness_SetCharReplacesTheWholeCell : 0x0D ≠ cellAddr State.reset.config 0x0C := by decide

theorem witness_RenderHandsOverTheWindow :
    (calling [.render]).WindowOk ∧ (calling [.render]).host = [.render] ∧ 15 < State.reset.config.visibleColumns := by decide

theorem witness_RenderReadsCodesOnly :
    (calling [.render]).host = [.render] ∧ { calling [.render] with d := false, ac := 0x40, cgram := Vector.replicate 8 glyph }.host = [.render] ∧
    ∀ k o, ((calling [.render]).cell k o).code =
      ({ calling [.render] with d := false, ac := 0x40, cgram := Vector.replicate 8 glyph }.cell k o).code :=
  ⟨rfl, rfl, fun _ _ => rfl⟩

theorem witness_UpdateCursorWritesRowSeven :
    (calling [.updateCursor]).host = [.updateCursor] ∧ (calling [.updateCursor]).c = false ∧
    { calling [.updateCursor] with c := true }.c = true := by decide

theorem witness_UpdateCursorTwiceIsOnce :
    { calling [.updateCursor, .updateCursor] with c := true, b := true }.host = [.updateCursor, .updateCursor] ∧
    { calling [.updateCursor, .updateCursor] with c := true, b := true }.c = true := by decide

theorem witness_RefreshIsRenderThenUpdateCursor : (calling [.refresh]).host = [.refresh] := by decide

theorem witness_PresetSetsTheNamedRegisters :
    (∀ a ∈ some 0x67, validAddr State.reset.config a) ∧ (some 2 : Option (BitVec 2)) ≠ some 3 ∧
    (some 0 : Option (BitVec 2)) ≠ some 3 ∧ (some 1 : Option (BitVec 2)) ≠ some 3 ∧ (none : Option (BitVec 2)) ≠ some 3 := by
  decide

theorem witness_IllegalPresetAndQueryFault :
    (∃ a, some 0x28 = some a ∧ ¬ validAddr State.reset.config a) ∧ State.reset.config.totalColumns ≤ 40 ∧
    (calling [.queryCell 2 0]).host = [.queryCell 2 0] ∧ (calling [.queryGlyph 8]).host = [.queryGlyph 8] :=
  ⟨⟨0x28, rfl, by decide⟩, by decide, rfl, rfl⟩

theorem witness_QueryAnswersAndChangesNothing :
    39 < State.reset.config.totalColumns ∧ (calling [.queryCell 1 39]).host = [.queryCell 1 39] ∧
    (calling [.queryCell 0 39]).host = [.queryCell 0 39] ∧ (calling [.queryGlyph 7]).host = [.queryGlyph 7] ∧
    (calling [.queryRegs]).host = [.queryRegs] := by decide

theorem witness_ConstructionIsResetOrRefused :
    Config.default.Legal ∧ { Config.default with totalColumns := 64 }.Legal ∧
    ¬ { Config.default with totalColumns := 65 }.Legal := by decide

theorem witness_ResetCellsAreZero : State.construct Config.default = .next State.reset := by rfl

/-- The reset state holds no CGROM code, so it holds every CGROM code's glyph. -/
theorem reset_RomGlyphsOk : State.reset.RomGlyphsOk := fun _ h => absurd h (by simp [State.reset, State.initial, Memory.read, Cell.blank])

theorem witness_StepKeepsTheInvariant :
    (falling true false 0x41).Inv ∧ stepGives (falling true false 0x41) (fun t => t.ac = 0x0D) = true := by decide

theorem witness_StepKeepsWindowAndAddress :
    (falling true false 0x41).AcOk ∧ (falling true false 0x41).WindowOk ∧
    (falling true false 0x41).config.decUnderflow = .wrapToBank1End ∧
    stepGives (falling true false 0x41) (fun t => t.ac = 0x0D) = true := by decide

theorem witness_StepKeepsRomGlyphs :
    (State.initial romA).RomGlyphsOk ∧
    stepGives { State.initial romA with host := [.sendData 0x41] } (fun t => (t.cell .bank0 12).code = 0x41) = true :=
  ⟨fun _ h => absurd h (by simp [State.initial, Memory.read, Cell.blank]), by decide⟩

theorem witness_OnlyPresetWritesTheModes :
    (calling [.render]).host = [.render] ∧ ∀ f : PresetFields, HostCall.render ≠ .preset f := by
  exact ⟨rfl, fun _ => by simp⟩

/-- Each kind of change happens. -/
theorem witness_EveryRegisterHasItsWriters :
    stepGives (calling [.writeCustomGlyph 0 glyph]) (fun t => t.cgram ≠ State.reset.cgram) = true ∧
    stepGives (calling [.edge true true true 0]) (fun t => t.rs && t.rw && t.enp) = true ∧
    stepGives { calling [.sendData 1] with sm := .left } (fun t => t.ws ≠ 12 && t.ac ≠ 0x0C && t.ddram ≠ []) = true ∧
    stepGives (calling [.render]) (fun t => t.sink ≠ []) = true ∧
    stepGives (calling [.queryRegs]) (fun t => t.replies ≠ []) = true := by decide

theorem witness_CellsChangeOnlyBySetCharOrOverlay :
    stepGives { calling [.updateCursor] with c := true } (fun t => t.ddram.read 0x0C ≠ State.reset.ddram.read 0x0C) = true := by
  decide

theorem witness_DeviceOperationsAreTotal :
    (calling [.edge false true false 0xFF]).host = [.edge false true false 0xFF] ∧
    (calling [.sendData 0xFF]).host = [.sendData 0xFF] ∧ (calling [.render]).host = [.render] ∧
    (calling [.updateCursor]).host = [.updateCursor] ∧ (calling [.refresh]).host = [.refresh] := by decide

theorem witness_OnlyHostPortViolationsStop :
    stepFaults (calling [.queryGlyph 8]) (.queryGlyph 8) = true ∧
    stepFaults (calling [.queryCell 2 0]) (.queryCell 2 0) = true := by decide

theorem witness_IdleStepChangesNothing : State.reset.host = [] := by decide

end Sys2Proof.Tests
end

section
/-! PROOFS. Construction: the reset state of a legal construction and the invariants it starts in
(spec/00_scope.md R11, spec/10_state.md R50, spec/70_reset_and_hazards.md R310). -/

namespace Sys2Proof.Machine

open Sys2Proof

/-! ### What construction answers -/

theorem construct_of_legal (p : Config) (h : p.Legal) : State.construct p = .next (State.initial p) := if_pos h

theorem construct_of_illegal (p : Config) (h : ¬ p.Legal) : State.construct p = .refused .illegalConstruction :=
  if_neg h

/-! ### The default window and the default address -/

/-- Centring keeps the window inside the columns. -/
theorem wsDefault_add_visible_le (p : Config) (h : p.Legal) : p.wsDefault + p.visibleColumns ≤ p.totalColumns := by
  obtain ⟨-, hfit, -⟩ := h
  simp only [Config.wsDefault]; omega

/-- The default address is the first visible cell of bank 0. -/
theorem validAddr_acDefault (p : Config) (h : p.Legal) : validAddr p p.acDefault := by
  have hlt : p.wsDefault < p.totalColumns := by
    have := h.1; have := wsDefault_add_visible_le p h; omega
  exact validAddr_encodeAddr p h .bank0 p.wsDefault hlt

/-! ### The reset state -/

theorem initial_read (p : Config) (a : Nat) : (State.initial p).ddram.read a = Cell.blank := rfl

theorem initial_cgram_slot (p : Config) (n : Nat) (h : n < 8) : (State.initial p).cgram[n] = Bitmap.zero := by
  simp [glyphReset]

/-- The window end is the last of the visible columns, with no truncated subtraction. -/
theorem initial_window_width (p : Config) (h : p.Legal) :
    (State.initial p).we + 1 = (State.initial p).ws + p.visibleColumns := by
  have := h.1
  simp only [initial_we, initial_ws]; omega

theorem initial_windowOk (p : Config) (h : p.Legal) : (State.initial p).WindowOk := by
  have hwidth := initial_window_width p h
  have hfit := wsDefault_add_visible_le p h
  refine ⟨?_, hwidth⟩
  simp only [initial_ws] at hwidth
  simp only [initial_config]; omega

theorem initial_acOk (p : Config) (h : p.Legal) : (State.initial p).AcOk := validAddr_acDefault p h

theorem initial_memoryOk (p : Config) : (State.initial p).MemoryOk := ⟨wf_nil, mapped_nil p⟩

theorem initial_inv (p : Config) (h : p.Legal) : (State.initial p).Inv :=
  ⟨h, initial_windowOk p h, validAddr_lt_acMod p h _ (initial_acOk p h), initial_memoryOk p⟩

/-- A blank cell holds code 0, which CGROM does not resolve. -/
theorem cellHoldsRomGlyph_blank (s : State) : cellHoldsRomGlyph s Cell.blank := fun hcode =>
  absurd hcode (by decide)

theorem initial_romGlyphsOk (p : Config) : (State.initial p).RomGlyphsOk := fun _ => cellHoldsRomGlyph_blank _

/-! ### The obligation -/

/-- Settles O45: a legal construction answers its `State.initial`, whose fields are read off by the field lemmas and
which meets each invariant by its own lemma. -/
theorem constructionIsResetOrRefused : Obligations.ConstructionIsResetOrRefused := by
  intro p
  refine ⟨construct_of_illegal p, fun h => ⟨State.initial p, construct_of_legal p h, ?_⟩⟩
  exact ⟨initial_config p, initial_ws p, initial_window_width p h, initial_ac p, initial_em p, initial_sm p,
    initial_d p, initial_c p, initial_b p, initial_rs p, initial_rw p, initial_enp p, initial_cgram_slot p,
    initial_read p, initial_host p, initial_sink p, initial_replies p, initial_inv p h, initial_acOk p h, initial_romGlyphsOk p⟩

end Sys2Proof.Machine
end

section
/-! PROOFS. What one step can do to the window, to AC and to DDRAM, and what it never writes: one inversion lemma per
piece of state, from which the invariants follow (spec/10_state.md R34). -/

namespace Sys2Proof.Machine

open Sys2Proof

/-! ### From a host call to a step -/

/-- What relates the states before and after every host call, and does not see the calls that remain, relates those
before and after every step. -/
theorem step_relates {R : State → State → Prop} (refl : ∀ s, R s s)
    (calls : ∀ s t rest, R (s.withCalls rest) t → R s t)
    (served : ∀ call s t, Served call s t → R s t) {s t : State} (h : step s = .next t) : R s t := by
  obtain ⟨-, rfl⟩ | ⟨call, rest, -, hserved⟩ := step_cases s t h
  · exact refl t
  · exact calls s t rest (served call _ t hserved)

theorem served_of_step {s t : State} {call : HostCall} {rest : List HostCall} (hh : s.host = call :: rest)
    (h : step s = .next t) : Served call (s.withCalls rest) t :=
  served_of_serve call _ t (step_of_cons s call rest hh ▸ h)

/-! ### The bus call as an instruction under a new latch -/

/-- No instruction sees the latch. -/
theorem instrEffect_withLatch (i : Instr) (s : State) (x y z : Bool) :
    instrEffect i (s.withLatch x y z) = (instrEffect i s).withLatch x y z := by
  cases i with
  | clr => rw [instrEffect, instrEffect, clearDisplay_eq, clearDisplay_eq]; rfl
  | shl => apply State.ext <;> simp [instrEffect] <;> rfl
  | shr => apply State.ext <;> simp [instrEffect]
  | data v => exact writeData_withLatch s v x y z
  | nop _ => rfl
  | read _ _ => rfl

/-- A bus call leaves its lines in the latch, over the instruction's effect when it is a falling edge. -/
theorem busEffect_eq (rs rw en : Bool) (db : Byte) (s : State) :
    busEffect rs rw en db s =
      (if fallingEdge s en then instrEffect (fetch s rs rw db) s else s).withLatch rs rw en := by
  cases hf : fallingEdge s en with
  | false => exact busEffect_of_not_falling rs rw en db s hf
  | true =>
    have hrec : recordLines rs rw s = s.withLatch rs rw s.enp := rfl
    rw [busEffect_of_falling rs rw en db s hf, hrec, instrEffect_withLatch]
    rfl

/-- The transaction's instruction is a data write when only RS is set. -/
theorem fetch_data (s : State) (db : Byte) : fetch s true false db = .data db := by simp [fetch, decodeWord]

/-- The transaction's instruction is the read stub when RW is set. -/
theorem fetch_read (s : State) (rs : Bool) (db : Byte) : fetch s rs true db = .read rs db := by
  simp [fetch, decodeWord]

/-- A bus call with EN high writes only the latch. -/
theorem busEffect_of_en_high (rs rw : Bool) (db : Byte) (s : State) :
    busEffect rs rw true db s = s.withLatch rs rw true :=
  busEffect_of_not_falling rs rw true db s (by simp [fallingEdge])

/-- A bus read writes only the latch. -/
theorem busEffect_of_read (rs en : Bool) (db : Byte) (s : State) :
    busEffect rs true en db s = s.withLatch rs true en := by
  rw [busEffect_eq, fetch_read]
  split <;> rfl

/-- A bus call that writes more than the latch is a write edge. -/
theorem busEffect_eq_withLatch_or_write_edge (rs rw en : Bool) (db : Byte) (s : State) :
    busEffect rs rw en db s = s.withLatch rs rw en ∨ rw = false ∧ en = false := by
  cases rw with
  | true => exact .inl (busEffect_of_read rs en db s)
  | false =>
    cases en with
    | true => exact .inl (busEffect_of_en_high rs false db s)
    | false => exact .inr ⟨rfl, rfl⟩

theorem autoShift_of_none (s : State) (h : s.sm = .none) : autoShift s = s := by simp only [autoShift, h]

/-- With SM = None a data transaction leaves the window where it is. -/
theorem busEffect_data_window (en : Bool) (db : Byte) (s : State) (h : s.sm = .none) :
    (busEffect true false en db s).ws = s.ws ∧ (busEffect true false en db s).we = s.we := by
  rw [busEffect_eq, fetch_data]
  split
  · simpa [instrEffect, autoShift_of_none s h] using writeData_window s db
  · exact ⟨rfl, rfl⟩

/-! ### The window -/

/-- The windows a step can leave: the old one, or the old one moved by one column inside its limits. -/
def WindowStep (s t : State) : Prop :=
  (t.ws = s.ws ∧ t.we = s.we) ∨
    (s.we < s.config.totalColumns - 1 ∧ t.ws = s.ws + 1 ∧ t.we = s.we + 1) ∨
    (0 < s.ws ∧ t.ws = s.ws - 1 ∧ t.we = s.we - 1)

theorem shiftLeft_windowStep (s : State) : WindowStep s (shiftLeft s) := by
  by_cases hlimit : s.we < s.config.totalColumns - 1
  · exact .inr (.inl (by simp [hlimit]))
  · exact .inl (by simp [hlimit])

theorem shiftRight_windowStep (s : State) : WindowStep s (shiftRight s) := by
  by_cases hlimit : 0 < s.ws
  · exact .inr (.inr (by simp [hlimit]))
  · exact .inl (by simp [hlimit])

theorem autoShift_windowStep (s : State) : WindowStep s (autoShift s) := by
  cases hsm : s.sm with
  | none => rw [autoShift_of_none s hsm]; exact .inl ⟨rfl, rfl⟩
  | left => simpa only [autoShift, hsm] using shiftLeft_windowStep s
  | right => simpa only [autoShift, hsm] using shiftRight_windowStep s

theorem writeData_windowStep (s : State) (v : Byte) : WindowStep s (writeData s v) := by
  obtain ⟨hws, hwe⟩ := writeData_window s v
  simpa only [WindowStep, hws, hwe] using autoShift_windowStep s

theorem instrEffect_windowStep (i : Instr) (s : State) : WindowStep s (instrEffect i s) := by
  cases i with
  | clr => exact .inl ⟨clearDisplay_ws s, clearDisplay_we s⟩
  | shl => exact shiftLeft_windowStep s
  | shr => exact shiftRight_windowStep s
  | nop _ => exact .inl ⟨rfl, rfl⟩
  | data v => exact writeData_windowStep s v
  | read _ _ => exact .inl ⟨rfl, rfl⟩

theorem served_windowStep (call : HostCall) (s t : State) (h : Served call s t) : WindowStep s t := by
  cases h with
  | edge rs rw en db =>
    rw [busEffect_eq]
    split
    · exact instrEffect_windowStep _ s
    · exact .inl ⟨rfl, rfl⟩
  | sendData v => exact writeData_windowStep s v
  | _ => exact .inl (by simp)

theorem step_windowStep {s t : State} (h : step s = .next t) : WindowStep s t :=
  step_relates (fun _ => .inl ⟨rfl, rfl⟩) (fun _ _ _ h => h) served_windowStep h

/-! ### The address counter -/

/-- The values a step can leave in AC: the old one, the engine's next one, the default address, or a valid one. -/
def AddressStep (s t : State) : Prop :=
  t.ac = s.ac ∨ t.ac = nextAC s.config s.em s.ac ∨ t.ac = s.config.acDefault ∨ validAddr s.config t.ac

theorem instrEffect_addressStep (i : Instr) (s : State) : AddressStep s (instrEffect i s) := by
  cases i with
  | clr => exact .inr (.inr (.inl (clearDisplay_ac s)))
  | shl => exact .inl (shiftLeft_ac s)
  | shr => exact .inl (shiftRight_ac s)
  | nop _ => exact .inl rfl
  | data v => exact .inr (.inl (writeData_ac s v))
  | read _ _ => exact .inl rfl

/-- The address a legal `Preset` leaves is the old one or a valid one. -/
theorem presetLegal_ac (p : Config) (f : PresetFields) (a : Nat) (h : presetLegal p f = true) :
    f.ac.getD a = a ∨ validAddr p (f.ac.getD a) := by
  cases hac : f.ac with
  | none => exact .inl rfl
  | some a' => exact .inr (by simpa [hac] using (Bool.and_eq_true_iff.1 h).1)

theorem served_addressStep (call : HostCall) (s t : State) (h : Served call s t) : AddressStep s t := by
  cases h with
  | edge rs rw en db =>
    rw [busEffect_eq]
    split
    · exact instrEffect_addressStep _ s
    · exact .inl rfl
  | sendData v => exact .inr (.inl (writeData_ac s v))
  | preset f s hlegal => exact (presetLegal_ac s.config f s.ac hlegal).imp_right (.inr ∘ .inr)
  | _ => exact .inl (by simp)

theorem step_addressStep {s t : State} (h : step s = .next t) : AddressStep s t :=
  step_relates (fun _ => .inl rfl) (fun _ _ _ h => h) served_addressStep h

/-! ### DDRAM -/

/-- The memories a step can leave: the old one, one `setChar` at AC's cell, the cleared one, or the cursor overlay at
AC's cell. -/
def MemoryStep (s t : State) : Prop :=
  t.ddram = s.ddram ∨
    (∃ v, t.ddram = s.ddram.write (cellAddr s.config s.ac) (setChar s v)) ∨
    t.ddram = clearedMemory s ∨
    (s.c = true ∧ t.ddram = s.ddram.write (cellAddr s.config s.ac)
      { memRead s s.ac with bmp := (memRead s s.ac).bmp.set 7 (cursorRow s) })

theorem instrEffect_memoryStep (i : Instr) (s : State) : MemoryStep s (instrEffect i s) := by
  cases i with
  | clr => exact .inr (.inr (.inl (clearDisplay_ddram s)))
  | shl => exact .inl (shiftLeft_ddram s)
  | shr => exact .inl (shiftRight_ddram s)
  | nop _ => exact .inl rfl
  | data v => exact .inr (.inl ⟨v, writeData_ddram s v⟩)
  | read _ _ => exact .inl rfl

theorem updateCursor_memoryStep (s : State) : MemoryStep s (updateCursor s) := by
  rw [updateCursor_eq]
  cases hc : s.c with
  | true => exact .inr (.inr (.inr ⟨hc, rfl⟩))
  | false => exact .inl rfl

theorem served_memoryStep (call : HostCall) (s t : State) (h : Served call s t) : MemoryStep s t := by
  cases h with
  | edge rs rw en db =>
    rw [busEffect_eq]
    split
    · exact instrEffect_memoryStep _ s
    · exact .inl rfl
  | sendData v => exact .inr (.inl ⟨v, writeData_ddram s v⟩)
  | refresh => exact updateCursor_memoryStep (render s)
  | updateCursor => exact updateCursor_memoryStep s
  | _ => exact .inl (by simp)

theorem step_memoryStep {s t : State} (h : step s = .next t) : MemoryStep s t :=
  step_relates (fun _ => .inl rfl) (fun _ _ _ h => h) served_memoryStep h

/-! ### What no step writes -/

theorem served_config (call : HostCall) (s t : State) (h : Served call s t) : t.config = s.config := by
  cases h <;> simp

theorem step_config {s t : State} (h : step s = .next t) : t.config = s.config :=
  step_relates (R := fun s t => t.config = s.config) (fun _ => rfl) (fun _ _ _ h => h) served_config h

end Sys2Proof.Machine
end

section
/-! PROOFS. The window, the address counter and the canonical form of DDRAM as invariants (spec/10_state.md R46, R47). -/

namespace Sys2Proof.Machine

open Sys2Proof

/-- The window after a step is in place: a shift moves both bounds or neither. -/
theorem WindowStep.windowOk {s t : State} (h : WindowStep s t) (hc : t.config = s.config) (hl : s.config.Legal)
    (hw : s.WindowOk) : t.WindowOk := by
  have hvisible := hl.1
  obtain ⟨hend, hwidth⟩ := hw
  simp only [State.WindowOk, hc]
  obtain hkept | hleft | hright := h
  · omega
  · omega
  · omega

/-- AC fits its width after a step: the engine reduces, and a valid address fits. -/
theorem AddressStep.acFits {s t : State} (h : AddressStep s t) (hc : t.config = s.config) (hl : s.config.Legal)
    (hfits : s.AcFits) : t.AcFits := by
  simp only [State.AcFits, hc]
  obtain hac | hac | hac | hvalid := h
  · exact hac ▸ hfits
  · exact hac ▸ nextAC_lt s.config hl s.em s.ac
  · exact hac ▸ validAddr_lt_acMod _ hl _ (validAddr_acDefault _ hl)
  · exact validAddr_lt_acMod _ hl _ hvalid

/-- Under the default policy the engine does not leave the banks. -/
theorem validAddr_nextAC (p : Config) (hl : p.Legal) (hp : p.decUnderflow = .wrapToBank1End) (em : EntryMode) (a : Nat)
    (ha : validAddr p a) : validAddr p (nextAC p em a) := by
  have hcols := columns_pos p hl
  have hend0 := bank0End_succ p hl
  have hend1 := bank1End_succ p hl
  have hmod := bank1End_lt_acMod p hl
  have hfit := validAddr_lt_acMod p hl a ha
  cases em with
  | increment =>
    simp only [nextAC]
    split_ifs with h0 h1
    · omega
    · omega
    · rw [acSucc_of_lt p a (by omega)]; omega
  | decrement =>
    simp only [nextAC, hp]
    split_ifs with h1 h0
    · omega
    · omega
    · rw [acPred_of_pos p a (by omega) hfit]; omega

/-- AC is valid after a step under the default policy. -/
theorem AddressStep.acOk {s t : State} (h : AddressStep s t) (hc : t.config = s.config) (hl : s.config.Legal)
    (hp : s.config.decUnderflow = .wrapToBank1End) (hok : s.AcOk) : t.AcOk := by
  rw [State.AcOk, hc]
  obtain hac | hac | hac | hvalid := h
  · exact hac ▸ hok
  · exact hac ▸ validAddr_nextAC s.config hl hp s.em s.ac hok
  · exact hac ▸ validAddr_acDefault _ hl
  · exact hvalid

/-- Writing a cell that exists keeps DDRAM canonical. -/
theorem write_cellAddr_ok (s : State) (hl : s.config.Legal) (hm : s.MemoryOk) (x : Cell) :
    (s.ddram.write (cellAddr s.config s.ac) x).wf ∧ (s.ddram.write (cellAddr s.config s.ac) x).mapped s.config :=
  ⟨write_wf _ _ x hm.1, write_mapped _ _ _ x hm.2 (validAddr_cellAddr _ hl _)⟩

/-- DDRAM is canonical after a step: every write goes to a cell that exists. -/
theorem MemoryStep.memoryOk {s t : State} (h : MemoryStep s t) (hc : t.config = s.config) (hl : s.config.Legal)
    (hm : s.MemoryOk) : t.MemoryOk := by
  rw [State.MemoryOk, hc]
  obtain hd | ⟨v, hd⟩ | hd | ⟨-, hd⟩ := h
  · exact hd ▸ hm
  · exact hd ▸ write_cellAddr_ok s hl hm _
  · exact hd ▸ clearedMemory_ok s hl hm
  · exact hd ▸ write_cellAddr_ok s hl hm _

/-- Settles O49: each part of the invariant follows from what a step can leave in its piece of state. -/
theorem stepKeepsTheInvariant : Obligations.StepKeepsTheInvariant := by
  intro s t ⟨hl, hwindow, hfits, hmem⟩ h
  have hc := step_config h
  exact ⟨hc ▸ hl, (step_windowStep h).windowOk hc hl hwindow, (step_addressStep h).acFits hc hl hfits,
    (step_memoryStep h).memoryOk hc hl hmem⟩

/-- What construction answers is the reset state of a legal construction. -/
theorem legal_and_eq_initial_of_construct {p : Config} {s : State} (h : State.construct p = .next s) :
    p.Legal ∧ s = State.initial p := by
  by_cases hl : p.Legal
  · rw [construct_of_legal p hl, Host.Outcome.next.injEq] at h
    exact ⟨hl, h.symm⟩
  · rw [construct_of_illegal p hl] at h
    cases h

/-- Settles O50: I1 to I3 from the window's step, I4 from the address engine's, and construction from its own lemmas. -/
theorem stepKeepsWindowAndAddress : Obligations.StepKeepsWindowAndAddress := by
  constructor
  · intro s t hl hp hwindow hac h
    have hc := step_config h
    exact ⟨Nat.zero_le _, (step_windowStep h).windowOk hc hl hwindow, (step_addressStep h).acOk hc hl hp hac⟩
  · intro p s h
    obtain ⟨hl, rfl⟩ := legal_and_eq_initial_of_construct h
    exact ⟨initial_windowOk p hl, initial_acOk p hl⟩

/-- Settles O47: every address of the reset state reads as the blank cell. -/
theorem resetCellsAreZero : Obligations.ResetCellsAreZero := by
  intro p s h k o
  obtain ⟨-, rfl⟩ := legal_and_eq_initial_of_construct h
  have hblank : (State.initial p).cell k o = Cell.blank := initial_read p _
  rw [hblank]
  exact ⟨rfl, fun r hr => Vector.getElem_replicate hr⟩

theorem default_legal : Config.default.Legal := by decide

/-- Settles O48: the default construction is legal, and a legal construction starts in every invariant. -/
theorem resetMeetsTheInvariants : Obligations.ResetMeetsTheInvariants :=
  ⟨initial_inv _ default_legal, initial_acOk _ default_legal, initial_romGlyphsOk _, rfl⟩

/-- A device under `free_run` that counts down, at bank 0's first cell, with a data write to serve. -/
def freeRunAtBank0Start : State :=
  { State.initial { Config.default with decUnderflow := .freeRun, resetEM := .decrement } with
    ac := 0x00, host := [.sendData 0x41] }

/-- Settles O51: from address 0x00 the decrement leaves 0x7F, outside both banks. -/
theorem freeRunLeavesTheBanks : Obligations.FreeRunLeavesTheBanks := by
  refine ⟨freeRunAtBank0Start, writeData (freeRunAtBank0Start.withCalls []) 0x41, by decide, by decide, rfl, rfl, ?_⟩
  have hac : (writeData (freeRunAtBank0Start.withCalls []) 0x41).ac = 0x7F := by
    rw [writeData_ac]; decide
  rw [State.AcOk, writeData_config, hac]
  decide

end Sys2Proof.Machine
end

section
/-! PROOFS. The cells: what one step can do to each, and the glyph each goes on holding (spec/10_state.md R23). -/

namespace Sys2Proof.Machine

open Sys2Proof

/-- The overlay leaves row 7 full or empty. -/
theorem cursorRow_full_or_empty (s : State) : cursorRow s = 0b11111 ∨ cursorRow s = 0b00000 := by
  cases hb : s.b <;> simp [cursorRow, hb, fullRow]

/-- Settles O56: a written cell is read back, every other cell is as before. -/
theorem cellsChangeOnlyBySetCharOrOverlay : Obligations.CellsChangeOnlyBySetCharOrOverlay := by
  intro s t a h
  obtain hd | ⟨v, hd⟩ | hd | ⟨hc, hd⟩ := step_memoryStep h
  · exact .inl (by rw [hd])
  · rw [hd, read_write]
    split
    · exact .inr (.inl ⟨v, rfl⟩)
    · exact .inl rfl
  · rw [hd, read_clearedMemory]
    split
    · exact .inr (.inl ⟨0, rfl⟩)
    · exact .inl rfl
  · rw [hd, read_write, memRead_eq]
    obtain rfl | ha := eq_or_ne a (cellAddr s.config s.ac)
    · exact .inr (.inr ⟨cursorRow s, cursorRow_full_or_empty s, hc, rfl, if_pos rfl⟩)
    · exact .inl (if_neg ha)

/-- A CGROM code's glyph depends on the construction alone. -/
theorem resolve_rom_congr (s t : State) (code : Byte) (hcode : 8 ≤ code.toNat) (hc : t.config = s.config) :
    resolve t code = resolve s code := by
  simp only [resolve, Nat.not_lt.2 hcode, dite_false, hc]

theorem cellHoldsRomGlyph_congr {s t : State} {x : Cell} (hc : t.config = s.config) (h : cellHoldsRomGlyph s x) :
    cellHoldsRomGlyph t x := by
  intro hcode
  rw [resolve_rom_congr s t x.code hcode hc]
  exact h hcode

/-- A cell just written by `setChar` holds its glyph. -/
theorem cellHoldsRomGlyph_setChar (s : State) (code : Byte) : cellHoldsRomGlyph s (setChar s code) :=
  fun _ => ⟨fun _ _ => rfl, .inl rfl⟩

/-- Setting row 7 full or empty keeps the glyph in the other rows. -/
theorem cellHoldsRomGlyph_set_row_seven {s : State} {x : Cell} {row : Row} (hrow : row = 0b11111 ∨ row = 0b00000)
    (h : cellHoldsRomGlyph s x) : cellHoldsRomGlyph s { x with bmp := x.bmp.set 7 row } := by
  intro hcode
  refine ⟨fun r hr => ?_, .inr ?_⟩
  · rw [Vector.getElem_set_ne _ _ (by omega)]
    exact (h hcode).1 r hr
  · rw [Vector.getElem_set_self]
    exact hrow

/-- Settles O52: whichever of the three things a step does to a cell, it still holds its glyph, and the construction
keeps the glyph. -/
theorem stepKeepsRomGlyphs : Obligations.StepKeepsRomGlyphs := by
  intro s t hs h a
  apply cellHoldsRomGlyph_congr (step_config h)
  obtain hread | ⟨code, hread⟩ | ⟨row, hrow, -, -, hread⟩ := cellsChangeOnlyBySetCharOrOverlay s t a h
  · exact hread ▸ hs a
  · exact hread ▸ cellHoldsRomGlyph_setChar s code
  · exact hread ▸ cellHoldsRomGlyph_set_row_seven hrow (hs a)

end Sys2Proof.Machine
end

section
/-! PROOFS. Who writes what (spec/10_state.md R34): for each piece of state, the host calls that can change it. -/

namespace Sys2Proof.Machine

open Sys2Proof

/-- Settles O53: no port writes the construction. -/
theorem parametersNeverChange : Obligations.ParametersNeverChange := fun _ _ h => step_config h

/-- `t` has the modes and display registers of `s`. -/
def SameModes (s t : State) : Prop := t.em = s.em ∧ t.sm = s.sm ∧ t.d = s.d ∧ t.c = s.c ∧ t.b = s.b

theorem instrEffect_sameModes (i : Instr) (s : State) : SameModes s (instrEffect i s) :=
  ⟨instrEffect_em i s, instrEffect_sm i s, instrEffect_d i s, instrEffect_c i s, instrEffect_b i s⟩

theorem step_sameModes {call : HostCall} {rest : List HostCall} {s t : State} (hh : s.host = call :: rest)
    (h : step s = .next t) (hcall : ∀ f, call ≠ .preset f) : SameModes s t := by
  cases served_of_step hh h with
  | preset f => exact absurd rfl (hcall f)
  | _ => simp [SameModes]

/-- Settles O54: no instruction writes a mode, and of the ports `Preset` alone does. -/
theorem onlyPresetWritesTheModes : Obligations.OnlyPresetWritesTheModes := by
  constructor
  · intro i s
    exact ⟨instrEffect i s, exec_eq i s, instrEffect_sameModes i s⟩
  · intro s t call rest hh h hcall
    exact step_sameModes hh h hcall

section
variable {call : HostCall} {rest : List HostCall} {s t : State} (hh : s.host = call :: rest) (h : step s = .next t)
include hh h

theorem step_cgram_writers (hne : t.cgram ≠ s.cgram) : ∃ slot g, call = .writeCustomGlyph slot g := by
  cases served_of_step hh h with
  | customGlyph slot g => exact ⟨slot, g, rfl⟩
  | _ => exact absurd (by simp) hne

theorem step_latch_writers (hne : t.rs ≠ s.rs ∨ t.rw ≠ s.rw ∨ t.enp ≠ s.enp) :
    ∃ rs rw en db, call = .edge rs rw en db := by
  cases served_of_step hh h with
  | edge rs rw en db => exact ⟨rs, rw, en, db, rfl⟩
  | _ => simp at hne

theorem step_window_writers (hne : t.ws ≠ s.ws ∨ t.we ≠ s.we) :
    (∃ db, call = .edge false false false db) ∨ (∃ v, call = .edge true false false v ∧ s.sm ≠ .none) ∨
      ∃ v, call = .sendData v ∧ s.sm ≠ .none := by
  cases served_of_step hh h with
  | edge rs rw en db =>
    obtain heq | ⟨rfl, rfl⟩ := busEffect_eq_withLatch_or_write_edge rs rw en db (s.withCalls rest)
    · simp [heq] at hne
    · cases rs with
      | false => exact .inl ⟨db, rfl⟩
      | true => exact .inr (.inl ⟨db, rfl, fun hsm => by simp [busEffect_data_window _ _ (s.withCalls rest) hsm] at hne⟩)
  | sendData v =>
    exact .inr (.inr ⟨v, rfl, fun hsm => by simp [writeData_window, autoShift_of_none (s.withCalls rest) hsm] at hne⟩)
  | _ => simp at hne

theorem step_ac_writers (hne : t.ac ≠ s.ac) :
    (∃ rs db, call = .edge rs false false db) ∨ (∃ v, call = .sendData v) ∨ ∃ f, call = .preset f := by
  cases served_of_step hh h with
  | edge rs rw en db =>
    obtain heq | ⟨rfl, rfl⟩ := busEffect_eq_withLatch_or_write_edge rs rw en db (s.withCalls rest)
    · simp [heq] at hne
    · exact .inl ⟨rs, db, rfl⟩
  | sendData v => exact .inr (.inl ⟨v, rfl⟩)
  | preset f => exact .inr (.inr ⟨f, rfl⟩)
  | _ => exact absurd (by simp) hne

theorem step_ddram_writers (hne : t.ddram ≠ s.ddram) :
    (∃ rs db, call = .edge rs false false db) ∨ (∃ v, call = .sendData v) ∨ call = .updateCursor ∨
      call = .refresh := by
  cases served_of_step hh h with
  | edge rs rw en db =>
    obtain heq | ⟨rfl, rfl⟩ := busEffect_eq_withLatch_or_write_edge rs rw en db (s.withCalls rest)
    · simp [heq] at hne
    · exact .inl ⟨rs, db, rfl⟩
  | sendData v => exact .inr (.inl ⟨v, rfl⟩)
  | updateCursor => exact .inr (.inr (.inl rfl))
  | refresh => exact .inr (.inr (.inr rfl))
  | _ => exact absurd (by simp) hne

theorem step_sink_writers (hne : t.sink ≠ s.sink) : call = .render ∨ call = .refresh := by
  cases served_of_step hh h with
  | render => exact .inl rfl
  | refresh => exact .inr rfl
  | _ => exact absurd (by simp) hne

theorem step_replies_writers (hne : t.replies ≠ s.replies) :
    (∃ k o, call = .queryCell k o) ∨ (∃ n, call = .queryGlyph n) ∨ call = .queryRegs := by
  cases served_of_step hh h with
  | queryCell k o => exact .inl ⟨k, o, rfl⟩
  | queryGlyph n => exact .inr (.inl ⟨n, rfl⟩)
  | queryRegs => exact .inr (.inr rfl)
  | _ => exact absurd (by simp) hne

end

/-- Settles O55: the writers of each piece of state, read off the host call that the step serves. -/
theorem everyRegisterHasItsWriters : Obligations.EveryRegisterHasItsWriters := by
  intro s t call rest hh h
  exact ⟨step_cgram_writers hh h, step_latch_writers hh h, step_window_writers hh h,
    step_ac_writers hh h, step_ddram_writers hh h, step_sink_writers hh h,
    step_replies_writers hh h⟩

end Sys2Proof.Machine
end

section
/-! PROOFS. The address map and its inverse (spec/20_memory.md R61 to R65). -/

namespace Sys2Proof.Machine

open Sys2Proof

/-- Whatever the address, `decode` names a column of a bank. -/
theorem decodeAddr_offset_lt (p : Config) (h : p.Legal) (a : Nat) : (decodeAddr p a).2 < p.totalColumns := by
  have hcols := columns_pos p h
  have hend0 := bank0End_succ p h
  have hend1 := bank1End_succ p h
  by_cases h0 : p.bank0Base ≤ a ∧ a ≤ p.bank0End
  · rw [decodeAddr_of_bank0 p a h0]; dsimp only; omega
  by_cases h1 : p.bank1Base ≤ a ∧ a ≤ p.bank1End
  · rw [decodeAddr_of_bank1 p a h0 h1]; dsimp only; omega
  · rw [decodeAddr_of_invalid p a (not_or.2 ⟨h0, h1⟩)]; exact hcols

/-- `decode` inverts `encode` on cells: the address is valid, so the decoded cell has the same address, and no two
cells share one. -/
theorem decodeAddr_encodeAddr (p : Config) (h : p.Legal) (k : Bank) (o : Nat) (ho : o < p.totalColumns) :
    decodeAddr p (encodeAddr p k o) = (k, o) := by
  have haddr : encodeAddr p (decodeAddr p (encodeAddr p k o)).1 (decodeAddr p (encodeAddr p k o)).2 =
      encodeAddr p k o := cellAddr_of_valid p _ (validAddr_encodeAddr p h k o ho)
  obtain ⟨hbank, hoffset⟩ := encodeAddr_inj p h _ k _ o (decodeAddr_offset_lt p h _) ho haddr
  exact Prod.ext hbank hoffset

/-- Settles O21: each clause is one law of the address map. -/
theorem addressMapRoundTrips : Obligations.AddressMapRoundTrips := fun p h =>
  ⟨decodeAddr_encodeAddr p h, cellAddr_of_valid p, cellAddr_of_invalid p, decodeAddr_offset_lt p h⟩

end Sys2Proof.Machine
end

section
/-! PROOFS. The encoding: what a byte, a transaction word and a list of bytes decode to, and that the encoder inverts
it (spec/30_encoding.md R91 to R97). -/

namespace Sys2Proof

/-! ### The byte of an instruction transaction -/

/-- What a byte decodes to, and why: the opcode it equals first in the order shift right, shift left, clear. -/
theorem decodeByte_cases (o : Opcodes) (db : Byte) :
    (db = o.shiftRight ∧ decodeByte o db = .shr) ∨
    (db ≠ o.shiftRight ∧ db = o.shiftLeft ∧ decodeByte o db = .shl) ∨
    (db ≠ o.shiftRight ∧ db ≠ o.shiftLeft ∧ db = o.clear ∧ decodeByte o db = .clr) ∨
    (db ≠ o.shiftRight ∧ db ≠ o.shiftLeft ∧ db ≠ o.clear ∧ decodeByte o db = .nop db) := by
  unfold decodeByte
  split_ifs <;> simp_all

theorem decodeByte_eq_shr_iff (o : Opcodes) (db : Byte) : decodeByte o db = .shr ↔ db = o.shiftRight := by
  obtain ⟨h, hd⟩ | ⟨h, -, hd⟩ | ⟨h, -, -, hd⟩ | ⟨h, -, -, hd⟩ := decodeByte_cases o db
  all_goals rw [hd]; simp [h]

theorem decodeByte_eq_shl_iff (o : Opcodes) (h : o.Distinct) (db : Byte) :
    decodeByte o db = .shl ↔ db = o.shiftLeft := by
  obtain ⟨-, -, hne⟩ := h
  obtain ⟨rfl, hd⟩ | ⟨-, h, hd⟩ | ⟨-, h, -, hd⟩ | ⟨-, h, -, hd⟩ := decodeByte_cases o db
  · simp [hd, hne.symm]
  all_goals rw [hd]; simp [h]

theorem decodeByte_eq_clr_iff (o : Opcodes) (h : o.Distinct) (db : Byte) :
    decodeByte o db = .clr ↔ db = o.clear := by
  obtain ⟨hleft, hright, -⟩ := h
  obtain ⟨rfl, hd⟩ | ⟨-, rfl, hd⟩ | ⟨-, -, h, hd⟩ | ⟨-, -, h, hd⟩ := decodeByte_cases o db
  · simp [hd, hright.symm]
  · simp [hd, hleft.symm]
  all_goals rw [hd]; simp [h]

theorem decodeByte_eq_nop_iff (o : Opcodes) (db : Byte) :
    decodeByte o db = .nop db ↔ db ≠ o.shiftRight ∧ db ≠ o.shiftLeft ∧ db ≠ o.clear := by
  obtain ⟨h, hd⟩ | ⟨-, h, hd⟩ | ⟨-, -, h, hd⟩ | ⟨hright, hleft, hclear, hd⟩ := decodeByte_cases o db
  · rw [hd]; simp [h]
  · rw [hd]; simp [h]
  · rw [hd]; simp [h]
  · simp [hright, hleft, hclear, hd]

/-- The `NOP` of a byte is well formed exactly when the byte is no opcode. -/
theorem wellFormed_nop_iff (o : Opcodes) (byte : Byte) :
    (Instr.nop byte).wellFormed o = true ↔ byte ≠ o.shiftRight ∧ byte ≠ o.shiftLeft ∧ byte ≠ o.clear := by
  simp only [Instr.wellFormed, Bool.and_eq_true, bne_iff_ne]; tauto

theorem wellFormed_decodeByte (o : Opcodes) (db : Byte) : (decodeByte o db).wellFormed o = true := by
  obtain ⟨-, hd⟩ | ⟨-, -, hd⟩ | ⟨-, -, -, hd⟩ | ⟨hright, hleft, hclear, hd⟩ := decodeByte_cases o db
  · rw [hd]; rfl
  · rw [hd]; rfl
  · rw [hd]; rfl
  · exact hd ▸ (wellFormed_nop_iff o db).2 ⟨hright, hleft, hclear⟩

/-- The encoder gives a decoded byte back, under RS = RW = 0. -/
theorem encode_decodeByte (o : Opcodes) (db : Byte) : encode o (decodeByte o db) = packWord false false db := by
  obtain ⟨h, hd⟩ | ⟨-, h, hd⟩ | ⟨-, -, h, hd⟩ | ⟨-, -, -, hd⟩ := decodeByte_cases o db
  · rw [hd, h]; rfl
  · rw [hd, h]; rfl
  · rw [hd, h]; rfl
  · rw [hd]; rfl

/-! ### The transaction word: one equation per row of R92 -/

theorem decodeWord_read (o : Opcodes) (rs : Bool) (db : Byte) : decodeWord o (packWord rs true db) = .read rs db := by
  simp [decodeWord]

theorem decodeWord_data (o : Opcodes) (db : Byte) : decodeWord o (packWord true false db) = .data db := by
  simp [decodeWord]

theorem decodeWord_instruction (o : Opcodes) (db : Byte) :
    decodeWord o (packWord false false db) = decodeByte o db := by
  simp [decodeWord]

/-- A word is a read, a data write or the byte of an instruction. -/
theorem word_cases (t : TWord) :
    (∃ rs db, t = packWord rs true db) ∨ (∃ db, t = packWord true false db) ∨ ∃ db, t = packWord false false db := by
  rw [← packWord_word t]
  cases wordRW t with
  | true => exact .inl ⟨_, _, rfl⟩
  | false =>
    cases wordRS t with
    | true => exact .inr (.inl ⟨_, rfl⟩)
    | false => exact .inr (.inr ⟨_, rfl⟩)

theorem decodeWord_encode (o : Opcodes) (h : o.Distinct) (i : Instr) (hi : i.wellFormed o = true) :
    decodeWord o (encode o i) = i := by
  cases i with
  | clr => exact (decodeWord_instruction o _).trans ((decodeByte_eq_clr_iff o h _).2 rfl)
  | shl => exact (decodeWord_instruction o _).trans ((decodeByte_eq_shl_iff o h _).2 rfl)
  | shr => exact (decodeWord_instruction o _).trans ((decodeByte_eq_shr_iff o _).2 rfl)
  | nop byte =>
    exact (decodeWord_instruction o byte).trans ((decodeByte_eq_nop_iff o byte).2 ((wellFormed_nop_iff o byte).1 hi))
  | data v => exact decodeWord_data o v
  | read rs db => exact decodeWord_read o rs db

/-! ### A word as bytes -/

/-- Two bytes that carry a word's lines and data are read as that word, whatever follows them. -/
theorem decodeBytes_wordBytes (o : Opcodes) (t : TWord) (rest : List Byte) :
    decodeBytes o (wordBytes t ++ rest) = .ok (decodeWord o t, rest) := by
  have hlines : ∀ rs rw : Bool, (BitVec.ofNat 8 (rs.toNat * 2 + rw.toNat)).toNat < 4 ∧
      (BitVec.ofNat 8 (rs.toNat * 2 + rw.toNat)).getLsbD 1 = rs ∧
      (BitVec.ofNat 8 (rs.toNat * 2 + rw.toNat)).getLsbD 0 = rw := by decide
  obtain ⟨hlt, hrs, hrw⟩ := hlines (wordRS t) (wordRW t)
  simp only [wordBytes, List.cons_append, List.nil_append, decodeBytes, if_pos hlt, hrs, hrw, packWord_word]

theorem decodeBytes_of_high_bit (o : Opcodes) (lo hi : Byte) (rest : List Byte) (h : 4 ≤ hi.toNat) :
    decodeBytes o (lo :: hi :: rest) = .error (.noSuchLine hi) := if_neg (Nat.not_lt.2 h)

/-- The first two bytes of a number below 1024 are those of the transaction word with its bits. -/
theorem wordBytes_ofNat (w : Nat) (h : w < 1024) :
    wordBytes (BitVec.ofNat 10 w) = [BitVec.ofNat 8 w, BitVec.ofNat 8 (w / 256)] := by
  have hw : (BitVec.ofNat 10 w).toNat = w := by simpa using h
  have hdata : wordDB (BitVec.ofNat 10 w) = BitVec.ofNat 8 w := by
    apply BitVec.eq_of_toNat_eq
    rw [wordDB_toNat, hw, BitVec.toNat_ofNat]
  have hbit : ∀ n : Nat, (decide (n % 2 = 1)).toNat = n % 2 := fun n => by
    rcases Nat.mod_two_eq_zero_or_one n with hn | hn <;> simp [hn]
  have hlines : (wordRS (BitVec.ofNat 10 w)).toNat * 2 + (wordRW (BitVec.ofNat 10 w)).toNat = w / 256 := by
    rw [wordRS_eq, wordRW_eq, hw, hbit, hbit]; omega
  rw [wordBytes, hdata, hlines]

/-- A table word of `nbits` bits that fit is laid out in its two low bytes and more. -/
theorem tableBytes_eq (nbits w : Nat) (h : w < 2 ^ nbits) :
    ∃ rest, tableBytes nbits w = BitVec.ofNat 8 w :: BitVec.ofNat 8 (w / 256) :: rest := by
  obtain ⟨n, hn⟩ : ∃ n, max 2 ((nbits + 7) / 8) = n + 2 := Nat.exists_eq_add_of_le' (le_max_left 2 _)
  exact ⟨littleEndian n (w / 256 / 256), by rw [tableBytes, hn, Nat.mod_eq_of_lt h]; rfl⟩

theorem decodeTableWord_of_lt (nbits w : Nat) (hbits : 10 ≤ nbits) (hw : w < 1024) :
    decodeTableWord nbits w = some (decodeWord Opcodes.default (BitVec.ofNat 10 w)) := by
  have hfits : w < 2 ^ nbits := lt_of_lt_of_le (b := 2 ^ 10) hw (Nat.pow_le_pow_right two_pos hbits)
  obtain ⟨rest, hrest⟩ := tableBytes_eq nbits w hfits
  have hbytes : tableBytes nbits w = wordBytes (BitVec.ofNat 10 w) ++ rest := by rw [hrest, wordBytes_ofNat w hw]; rfl
  rw [decodeTableWord, hbytes, decodeBytes_wordBytes]

theorem decodeTableWord_of_high_bit (w : Nat) (hhigh : 1024 ≤ w) (hw : w < 65536) : decodeTableWord 16 w = none := by
  obtain ⟨rest, hrest⟩ := tableBytes_eq 16 w hw
  have hhi : 4 ≤ (BitVec.ofNat 8 (w / 256)).toNat := by rw [BitVec.toNat_ofNat]; omega
  rw [decodeTableWord, hrest, decodeBytes_of_high_bit _ _ _ _ hhi]

end Sys2Proof

namespace Sys2Proof.Machine

open Sys2Proof

/-! ### The effect of a decoded word -/

/-- The decoder and the document's `dispatch` agree on every byte. -/
theorem instrEffect_decodeByte (s : State) (db : Byte) :
    instrEffect (decodeByte s.config.opcodes db) s = dispatchProcedure db s := by
  unfold decodeByte dispatchProcedure
  split_ifs <;> rfl

/-! ### The obligations -/

/-- Settles O1: the word decodes by its instruction's row, and its bytes decode to whatever the word does. -/
theorem decodeOfEncodeIsTheInstruction : Obligations.DecodeOfEncodeIsTheInstruction := by
  intro o h i hi
  have hword := decodeWord_encode o h i hi
  exact ⟨hword, fun rest => by rw [decodeBytes_wordBytes, hword]⟩

/-- Settles O2, by the row of R92 that the word belongs to. -/
theorem everyWordIsExactlyOneInstruction : Obligations.EveryWordIsExactlyOneInstruction := by
  intro o t
  obtain ⟨rs, db, rfl⟩ | ⟨db, rfl⟩ | ⟨db, rfl⟩ := word_cases t
  · rw [decodeWord_read]; exact ⟨rfl, rfl⟩
  · rw [decodeWord_data]; exact ⟨rfl, rfl⟩
  · rw [decodeWord_instruction]; exact ⟨wellFormed_decodeByte o db, encode_decodeByte o db⟩

/-- Settles O3: the word's range is its row of R92, and `exec` of that row's instruction is its effect. -/
theorem firstLevelDecodeTestsRwFirst : Obligations.FirstLevelDecodeTestsRwFirst := by
  intro s t
  refine ⟨wordDB_toNat t, ?_⟩
  obtain ⟨rs, db, rfl⟩ | ⟨db, rfl⟩ | ⟨db, rfl⟩ := word_cases t
  · have hrange : 0x100 ≤ (packWord rs true db).toNat ∧ (packWord rs true db).toNat < 0x200 ∨
        0x300 ≤ (packWord rs true db).toNat := by
      have hrs := rs.toNat_le
      have := db.isLt
      rw [packWord_toNat, Bool.toNat_true]; omega
    rw [decodeWord_read, exec_eq]
    exact ⟨fun _ => by omega, fun _ _ => by omega, fun _ _ => rfl, fun _ _ => rfl⟩
  · have hrange : (packWord true false db).toNat = 0x200 + db.toNat := by simp [packWord_toNat]
    have := db.isLt
    rw [decodeWord_data, exec_eq, wordDB_packWord]
    exact ⟨fun _ => by omega, fun _ _ => rfl, fun _ _ => by omega, fun _ _ => by omega⟩
  · have hrange : (packWord false false db).toNat = db.toNat := by simp [packWord_toNat]
    have := db.isLt
    rw [decodeWord_instruction, exec_eq, wordDB_packWord, instrEffect_decodeByte]
    exact ⟨fun _ => rfl, fun _ _ => by omega, fun _ _ => by omega, fun _ _ => by omega⟩

/-- Settles O4: each instruction's byte by its own equivalence; the default opcodes' neighbours are no opcode. -/
theorem dispatchMatchesAllEightBits : Obligations.DispatchMatchesAllEightBits := by
  constructor
  · intro o h db
    exact ⟨decodeByte_eq_shr_iff o db, decodeByte_eq_shl_iff o h db, decodeByte_eq_clr_iff o h db,
      decodeByte_eq_nop_iff o db⟩
  · decide

/-- Settles O6: the two low bytes of a table word are its transaction word's, or carry a line the device lacks. -/
theorem tableWordIsTheTransactionWord : Obligations.TableWordIsTheTransactionWord :=
  ⟨decodeTableWord_of_lt, decodeTableWord_of_high_bit,
    fun o lo hi rest => ⟨rfl, rfl, decodeBytes_of_high_bit o lo hi rest⟩⟩

/-- Settles O5: each written word fits in ten bits, so it is read as the transaction word with those bits. -/
theorem writtenWordsDecode : Obligations.WrittenWordsDecode := by
  unfold Obligations.WrittenWordsDecode
  simp only [decodeTableWord_of_lt, Nat.reduceLeDiff, Nat.reduceLT]
  decide

end Sys2Proof.Machine
end

section
/-! PROOFS. The glyph store: which memory a code resolves through, what a custom-glyph write does, and that a cell keeps
the glyph it was written with (spec/40_glyph_store.md R120 to R125). -/

namespace Sys2Proof.Machine

open Sys2Proof

/-! ### `resolve`, by the code's range -/

theorem resolve_of_lt (s : State) (code : Byte) (h : code.toNat < 8) : resolve s code = s.cgram[code.toNat] :=
  dif_pos h

theorem resolve_of_ge (s : State) (code : Byte) (h : 8 ≤ code.toNat) :
    resolve s code = (romGlyph s.config.cgrom code).getD Bitmap.zero :=
  dif_neg (Nat.not_lt.2 h)

/-- Settles O29, by the range of the code; the default CGROM has no entry. -/
theorem resolveChoosesTheGlyphMemory : Obligations.ResolveChoosesTheGlyphMemory := by
  intro s code
  refine ⟨fun h rom => resolve_of_lt _ code h, fun h g hg => ?_, fun h hg => ?_, ?_⟩
  · rw [resolve_of_ge s code h, hg, Option.getD_some]
  · rw [resolve_of_ge s code h, hg, Option.getD_none]; rfl
  · rw [resolve_of_ge _ _ (by decide)]; rfl

/-! ### The custom-glyph write -/

/-- The state with another bitmap in one CGRAM slot. -/
def State.withGlyph (s : State) (slot : Nat) (g : Bitmap) (h : slot < 8) : State :=
  { s with cgram := s.cgram.set slot g }

section
variable (s : State) (slot : Nat) (g : Bitmap)

@[simp] theorem withGlyph_config (h : slot < 8) : (s.withGlyph slot g h).config = s.config := rfl
@[simp] theorem withGlyph_ddram (h : slot < 8) : (s.withGlyph slot g h).ddram = s.ddram := rfl
@[simp] theorem withGlyph_ac (h : slot < 8) : (s.withGlyph slot g h).ac = s.ac := rfl

theorem withGlyph_cgram_slot (h : slot < 8) (n : Nat) (hn : n < 8) :
    (s.withGlyph slot g h).cgram[n] = if n = slot then g else s.cgram[n] := by
  simp only [State.withGlyph, Vector.getElem_set, eq_comm]

/-- The slot's code resolves to the new bitmap, every other code as before. -/
theorem resolve_withGlyph (h : slot < 8) (code : Byte) :
    resolve (s.withGlyph slot g h) code = if code.toNat = slot then g else resolve s code := by
  by_cases hcode : code.toNat < 8
  · rw [resolve_of_lt _ code hcode, resolve_of_lt s code hcode, withGlyph_cgram_slot]
  · have hne : code.toNat ≠ slot := by omega
    rw [if_neg hne]
    exact resolve_rom_congr s _ code (Nat.not_lt.1 hcode) rfl

theorem writeCustomGlyph_of_lt (h : slot < 8) : writeCustomGlyph slot g s = .next (s.withGlyph slot g h) := dif_pos h

theorem writeCustomGlyph_of_failFast (h : 8 ≤ slot) (hp : s.config.slotOor = .failFast) :
    writeCustomGlyph slot g s = .fault (.contractViolation (.customGlyphSlot slot)) := by
  simp only [writeCustomGlyph, Nat.not_lt.2 h, dite_false, hp, raiseViolation]

theorem writeCustomGlyph_of_ignore (h : 8 ≤ slot) (hp : s.config.slotOor = .ignore) :
    writeCustomGlyph slot g s = .next s := by
  simp only [writeCustomGlyph, Nat.not_lt.2 h, dite_false, hp]

end

/-- Settles O30: the step writes one CGRAM slot, and `resolve` reads CGRAM itself. -/
theorem customGlyphWriteIsVisibleAtOnce : Obligations.CustomGlyphWriteIsVisibleAtOnce := by
  refine ⟨resolve_of_lt, fun s slot g rest h hh => ⟨(s.withCalls rest).withGlyph slot g h, ?_, rfl, ?_, ?_⟩⟩
  · rw [step_of_cons s _ rest hh]
    exact writeCustomGlyph_of_lt _ slot g h
  · exact withGlyph_cgram_slot _ slot g h
  · exact resolve_withGlyph _ slot g h

/-- Settles O31: the step is the port's answer to a slot above 7, by `SLOT_OOR`. -/
theorem outOfRangeSlotIsTheHostsFault : Obligations.OutOfRangeSlotIsTheHostsFault := by
  intro s slot g rest h hh
  rw [step_of_cons s _ rest hh]
  exact ⟨writeCustomGlyph_of_failFast (s.withCalls rest) slot g h,
    writeCustomGlyph_of_ignore (s.withCalls rest) slot g h⟩

/-! ### Runs of host calls -/

/-- A call that is served, whatever calls remain, is the first step of the run. -/
theorem runCalls_cons {call : HostCall} {calls : List HostCall} {s t : State}
    (h : serve call (s.withCalls calls) = .next (t.withCalls calls)) :
    runCalls (call :: calls) s = runCalls calls t :=
  runSteps_succ _ _ _ ((step_of_cons _ call calls rfl).trans h)

theorem serve_sendData (s : State) (v : Byte) (calls : List HostCall) :
    serve (.sendData v) (s.withCalls calls) = .next ((writeData s v).withCalls calls) :=
  congrArg Host.Outcome.next (writeData_withCalls s v calls)

theorem serve_writeCustomGlyph (s : State) (slot : Nat) (g : Bitmap) (h : slot < 8) (calls : List HostCall) :
    serve (.writeCustomGlyph slot g) (s.withCalls calls) = .next ((s.withGlyph slot g h).withCalls calls) :=
  writeCustomGlyph_of_lt _ slot g h

/-! ### A cell holds a copy of its glyph -/

/-- Two data writes of one code, with a write of that code's glyph between them. -/
def writesAroundGlyph (s : State) (v : Byte) (g : Bitmap) (h : v.toNat < 8) : State :=
  writeData ((writeData s v).withGlyph v.toNat g h) v

theorem runCalls_writesAroundGlyph (s : State) (v : Byte) (g : Bitmap) (h : v.toNat < 8) :
    runCalls [.sendData v, .writeCustomGlyph v.toNat g, .sendData v] s =
      .next ((writesAroundGlyph s v g h).withCalls []) := by
  rw [runCalls_cons (serve_sendData _ _ _), runCalls_cons (serve_writeCustomGlyph _ _ _ h _),
    runCalls_cons (serve_sendData _ _ _)]
  rfl

/-- The cell written last holds the new glyph. -/
theorem read_writesAroundGlyph_second (s : State) (v : Byte) (g : Bitmap) (h : v.toNat < 8) :
    (writesAroundGlyph s v g h).ddram.read (cellAddr s.config (writeData s v).ac) = { code := v, bmp := g } := by
  simp [writesAroundGlyph, setChar, resolve_withGlyph]

/-- The cell written first keeps the old glyph. -/
theorem read_writesAroundGlyph_first (s : State) (v : Byte) (g : Bitmap) (h : v.toNat < 8)
    (hne : cellAddr s.config s.ac ≠ cellAddr s.config (writeData s v).ac) :
    (writesAroundGlyph s v g h).ddram.read (cellAddr s.config s.ac) = { code := v, bmp := s.cgram[v.toNat] } := by
  simp only [writeData_ac] at hne
  simp [writesAroundGlyph, read_write, hne, setChar, resolve_of_lt s v h]

theorem step_writeCustomGlyph_ddram {s t : State} {slot : Nat} {g : Bitmap} {rest : List HostCall}
    (hh : s.host = .writeCustomGlyph slot g :: rest) (h : step s = .next t) : t.ddram = s.ddram := by
  cases served_of_step hh h with
  | customGlyph => rfl
  | customGlyphIgnored => rfl

/-- The reset state with code 3 written before and after its glyph is filled. -/
def copiedGlyphs : State := writesAroundGlyph State.reset 3 (Vector.replicate 8 fullRow) (by decide)

theorem copiedGlyphs_cell_12 : (copiedGlyphs.withCalls []).cell .bank0 12 = { code := 3, bmp := Bitmap.zero } :=
  read_writesAroundGlyph_first State.reset 3 _ _ (by decide)

theorem copiedGlyphs_cell_13 :
    (copiedGlyphs.withCalls []).cell .bank0 13 = { code := 3, bmp := Vector.replicate 8 fullRow } :=
  read_writesAroundGlyph_second State.reset 3 _ _

/-- Settles O32: (a) and (b) by what the port can write; for (c), columns 12 and 13 of bank 0 are written with code 3
before and after its glyph changes. -/
theorem glyphsAreCopiedIntoCells : Obligations.GlyphsAreCopiedIntoCells := by
  refine ⟨fun s slot g rest t => step_writeCustomGlyph_ddram, fun s rest hh => ?_, ?_⟩
  · exact ⟨updateCursor (s.withCalls rest), step_of_cons s _ rest hh, by simp, by simp⟩
  · refine ⟨_, copiedGlyphs.withCalls [], 12, 13, runCalls_writesAroundGlyph State.reset 3 _ _, ?_⟩
    rw [copiedGlyphs_cell_12, copiedGlyphs_cell_13]
    decide

end Sys2Proof.Machine
end

section
/-! PROOFS. The cell primitives: `setChar` through a memory write, and the two cursor-bar operations on row 7
(spec/41_cell.md R140 to R142). -/

namespace Sys2Proof.Machine

open Sys2Proof

/-! ### `setChar` through `memWrite` -/

section
variable (s : State) (a : Nat) (code : Byte)

theorem memRead_memWrite : memRead (memWrite s a code) a = setChar s code := by
  simp [memRead_eq]

theorem read_memWrite_other (a' : Nat) (h : a' ≠ cellAddr s.config a) :
    (memWrite s a code).ddram.read a' = s.ddram.read a' := by
  rw [memWrite_ddram, read_write_other _ _ _ _ h]

/-- `setChar` reads CGRAM and CGROM only, so the second write puts the cell the first one put. -/
theorem memWrite_idem : memWrite (memWrite s a code) a code = memWrite s a code := by
  have hcell : setChar (memWrite s a code) code = setChar s code := setChar_congr s _ code rfl rfl
  apply State.ext <;> simp [hcell]

end

/-- Settles O33: the write puts `setChar`'s cell at `cellAddr`, and in DDRAM alone. -/
theorem setCharReplacesTheWholeCell : Obligations.SetCharReplacesTheWholeCell :=
  fun s a code => ⟨memRead_memWrite s a code, read_memWrite_other s a code, rfl, memWrite_idem s a code⟩

/-! ### The cursor bar -/

section
variable (x : Cell)

@[simp] theorem setCursorBar_code : (setCursorBar x).code = x.code := rfl
@[simp] theorem toggleCursorBar_code : (toggleCursorBar x).code = x.code := rfl

@[simp] theorem setCursorBar_row_seven : (setCursorBar x).bmp[7] = fullRow := Vector.getElem_set_self _

@[simp] theorem toggleCursorBar_row_seven : (toggleCursorBar x).bmp[7] = x.bmp[7] ^^^ fullRow :=
  Vector.getElem_set_self _

theorem setCursorBar_row_of_lt (r : Nat) (h : r < 7) : (setCursorBar x).bmp[r] = x.bmp[r] :=
  Vector.getElem_set_ne (by decide) _ (Nat.ne_of_gt h)

theorem toggleCursorBar_row_of_lt (r : Nat) (h : r < 7) : (toggleCursorBar x).bmp[r] = x.bmp[r] :=
  Vector.getElem_set_ne (by decide) _ (Nat.ne_of_gt h)

theorem setCursorBar_idem : setCursorBar (setCursorBar x) = setCursorBar x := by
  simp [setCursorBar]

end

/-- Inverting row 7 twice gives it back. -/
theorem toggleCursorBar_involutive : Function.Involutive toggleCursorBar := by
  intro x
  have hrow : x.bmp[7] ^^^ fullRow ^^^ fullRow = x.bmp[7] := by
    rw [BitVec.xor_assoc, BitVec.xor_self, BitVec.xor_zero]
  simp [toggleCursorBar, hrow]

theorem toggleCursorBar_iterate (n : Nat) (x : Cell) :
    toggleCursorBar^[n] x = if n % 2 = 0 then x else toggleCursorBar x := by
  split
  next h => rw [toggleCursorBar_involutive.iterate_even (Nat.even_iff.2 h), id]
  next h => rw [toggleCursorBar_involutive.iterate_odd (Nat.not_even_iff_odd.1 (mt Nat.even_iff.1 h))]

/-- Settles O34: each primitive writes row 7 alone, and toggling is an involution. -/
theorem cursorBarPrimitives : Obligations.CursorBarPrimitives :=
  fun x => ⟨setCursorBar_row_seven x, setCursorBar_row_of_lt x, setCursorBar_code x, setCursorBar_idem x,
    toggleCursorBar_row_seven x, toggleCursorBar_row_of_lt x, toggleCursorBar_code x,
    fun n => toggleCursorBar_iterate n x⟩

end Sys2Proof.Machine
end

section
/-! PROOFS. The bus latch (spec/42_bus_latch.md R160 to R169): a bus call as a step and as the document's procedure, the
word a fetch presents, and a sequence of pulses. -/

namespace Sys2Proof

/-! ### Every table word that decodes -/

/-- A number whose second byte carries no line beyond RW and RS has the two low bytes of its transaction word. -/
theorem wordBytes_ofNat_of_second_byte_lt (w : Nat) (h : w / 256 % 256 < 4) :
    wordBytes (BitVec.ofNat 10 w) = [BitVec.ofNat 8 w, BitVec.ofNat 8 (w / 256)] := by
  have hword : BitVec.ofNat 10 w = BitVec.ofNat 10 (w % 1024) := BitVec.eq_of_toNat_eq (by simp)
  have hlow : BitVec.ofNat 8 (w % 1024) = BitVec.ofNat 8 w := BitVec.eq_of_toNat_eq (by simp)
  have hhigh : BitVec.ofNat 8 (w % 1024 / 256) = BitVec.ofNat 8 (w / 256) := BitVec.eq_of_toNat_eq (by simp; omega)
  rw [hword, wordBytes_ofNat _ (Nat.mod_lt w (by decide)), hlow, hhigh]

/-- A table word that decodes at all decodes to its transaction word's instruction, however many bits it has. -/
theorem decodeWord_tableWord (nbits w : Nat) (i : Instr) (h : decodeTableWord nbits w = some i) :
    decodeWord Opcodes.default (tableWord nbits w) = i := by
  have hmod : tableBytes nbits (w % 2 ^ nbits) = tableBytes nbits w := by rw [tableBytes, Nat.mod_mod, tableBytes]
  obtain ⟨rest, hrest⟩ := tableBytes_eq nbits (w % 2 ^ nbits) (Nat.mod_lt w (Nat.two_pow_pos nbits))
  rw [decodeTableWord, ← hmod, hrest] at h
  by_cases hhi : 4 ≤ (BitVec.ofNat 8 (w % 2 ^ nbits / 256)).toNat
  · rw [decodeBytes_of_high_bit _ _ _ _ hhi] at h
    cases h
  · have hbytes := wordBytes_ofNat_of_second_byte_lt (w % 2 ^ nbits) (Nat.not_le.1 hhi)
    have hdecode := decodeBytes_wordBytes Opcodes.default (tableWord nbits w) rest
    rw [tableWord, hbytes, List.cons_append, List.cons_append, List.nil_append] at hdecode
    rw [hdecode] at h
    exact Option.some.inj h

end Sys2Proof

namespace Sys2Proof.Machine

open Sys2Proof

/-! ### The step that serves a bus call -/

theorem fallingEdge_iff (s : State) (en : Bool) : fallingEdge s en = true ↔ s.enp = true ∧ en = false := by
  simp [fallingEdge]

theorem step_of_edge {s : State} {rs rw en : Bool} {db : Byte} {rest : List HostCall}
    (h : s.host = .edge rs rw en db :: rest) : step s = .next (busEffect rs rw en db (s.withCalls rest)) :=
  (step_of_cons s _ rest h).trans (handleBusEdge_eq rs rw en db _)

/-- Settles O7: no instruction stops, and the step is its effect on the recorded lines. -/
theorem stepRunsTheDecodedInstruction : Obligations.StepRunsTheDecodedInstruction := by
  intro s rs rw db rest i hhost henp hi
  refine ⟨_, exec_eq i _, ?_⟩
  have hfalling : fallingEdge (s.withCalls rest) false = true := (fallingEdge_iff _ _).2 ⟨henp, rfl⟩
  rw [step_of_edge hhost, busEffect_of_falling _ _ _ _ _ hfalling, ← hi]
  rfl

/-- Settles O8: the presented word is a pending falling edge, of the instruction the table's bytes decode to. -/
theorem fetchWordRunsTheTableInstruction : Obligations.FetchWordRunsTheTableInstruction := by
  intro s nbits w i hopcodes hdecode
  have hword : decodeWord s.config.opcodes (packWord (wordRS (tableWord nbits w)) (wordRW (tableWord nbits w))
      (wordDB (tableWord nbits w))) = i := by
    rw [packWord_word, hopcodes, decodeWord_tableWord nbits w i hdecode]
  exact stepRunsTheDecodedInstruction (s.withFetchWord nbits w) _ _ _ s.host i rfl rfl hword

/-- Settles O10: what a bus call leaves in the latch, and that it runs nothing without a falling edge. -/
theorem everyBusCallRecordsItsLines : Obligations.EveryBusCallRecordsItsLines := by
  intro s rs rw en db rest hhost
  refine ⟨_, step_of_edge hhost, busEffect_rs .., busEffect_rw .., busEffect_enp .., fun hidle => ?_⟩
  have hfalling : fallingEdge (s.withCalls rest) en = false :=
    Bool.eq_false_iff.2 (mt (fallingEdge_iff _ _).1 hidle)
  exact busEffect_of_not_falling rs rw en db _ hfalling

/-- Settles O18: the read stub is the identity, so the bus call leaves only its lines. -/
theorem readStubChangesOnlyTheLatch : Obligations.ReadStubChangesOnlyTheLatch := by
  refine ⟨fun rs db s => exec_eq (.read rs db) s, fun s rs en db rest hhost => ?_⟩
  rw [step_of_edge hhost, busEffect_of_read]
  rfl

/-! ### The document's procedure -/

/-- The transaction's instruction is the byte's when both lines are low. -/
theorem fetch_instruction (s : State) (db : Byte) : fetch s false false db = decodeByte s.config.opcodes db :=
  decodeWord_instruction _ db

/-- A falling edge writes by RS, and with RW = 1 it does nothing (spec/42_bus_latch.md R163, R166). -/
theorem instrEffect_fetch (s : State) (rs rw : Bool) (db : Byte) :
    instrEffect (fetch s rs rw db) s =
      if rw = false then if rs = false then dispatchProcedure db s else writeData s db else s := by
  cases rw with
  | true => rw [fetch_read]; rfl
  | false =>
    cases rs with
    | true => rw [fetch_data]; rfl
    | false => rw [fetch_instruction, instrEffect_decodeByte]; rfl

theorem busEffect_eq_busProcedure (rs rw en : Bool) (db : Byte) (s : State) :
    busEffect rs rw en db s = busProcedure rs rw en db s := by
  have heffect := instrEffect_fetch (recordLines rs rw s) rs rw db
  have hfetch : fetch (recordLines rs rw s) rs rw db = fetch s rs rw db := rfl
  rw [hfetch] at heffect
  simp only [busEffect, busProcedure, heffect, fallingEdge_iff, ite_and]
  rfl

/-- Settles O9: the step is the bus call's effect, which is the procedure's. -/
theorem busCallIsTheDocumentsProcedure : Obligations.BusCallIsTheDocumentsProcedure := by
  intro s rs rw en db rest hhost
  rw [step_of_edge hhost, busEffect_eq_busProcedure]
  rfl

/-! ### Repeated data writes -/

section
variable (n : Nat) (v : Byte) (s : State)

theorem writeTimes_add (m : Nat) : writeTimes (m + n) v s = writeTimes n v (writeTimes m v s) := by
  induction m generalizing s with
  | zero => rw [Nat.zero_add]; rfl
  | succ m ih => rw [Nat.add_right_comm]; exact ih (writeData s v)

theorem writeTimes_withLatch (x y z : Bool) :
    writeTimes n v (s.withLatch x y z) = (writeTimes n v s).withLatch x y z := by
  induction n generalizing s with
  | zero => rfl
  | succ n ih => rw [writeTimes, writeData_withLatch, ih]; rfl

theorem writeTimes_withCalls (calls : List HostCall) :
    writeTimes n v (s.withCalls calls) = (writeTimes n v s).withCalls calls := by
  induction n generalizing s with
  | zero => rfl
  | succ n ih => rw [writeTimes, writeData_withCalls, ih]; rfl

end

/-! ### A sequence of pulses -/

theorem countFalling_singleton (s : State) (en : Bool) :
    countFalling s.enp [en] = if fallingEdge s en then 1 else 0 := rfl

/-- A data transaction writes as many times as its one call makes falling edges. -/
theorem busEffect_data (en : Bool) (v : Byte) (s : State) :
    busEffect true false en v s = (writeTimes (countFalling s.enp [en]) v s).withLatch true false en := by
  rw [busEffect_eq, fetch_data, countFalling_singleton]
  cases fallingEdge s en <;> rfl

theorem serve_data_edge (s : State) (en : Bool) (v : Byte) (calls : List HostCall) :
    serve (.edge true false en v) (s.withCalls calls) =
      .next (((writeTimes (countFalling s.enp [en]) v s).withLatch true false en).withCalls calls) := by
  rw [serve, handleBusEdge_eq, busEffect_data, writeTimes_withCalls]
  rfl

theorem countFalling_cons (prev en : Bool) (ens : List Bool) :
    countFalling prev (en :: ens) = countFalling prev [en] + countFalling en ens := rfl

/-- Settles O11, by induction on the nonempty sequence of EN values: the first call writes at most once and hands its EN
to the rest. -/
theorem pulsesWriteOncePerFallingEdge : Obligations.PulsesWriteOncePerFallingEdge := by
  intro s v ens hens
  induction ens, hens using List.recNeNil generalizing s with
  | singleton en =>
    rw [List.map_singleton, runCalls_cons (serve_data_edge s en v []), writeTimes_withCalls]
    rfl
  | cons en ens hens ih =>
    rw [List.map_cons, runCalls_cons (serve_data_edge s en v _), ih, countFalling_cons s.enp en ens, writeTimes_add]
    simp only [writeTimes_withCalls, writeTimes_withLatch]
    rfl

end Sys2Proof.Machine
end

section
/-! PROOFS. The instructions with RS = RW = 0 (spec/43_instructions.md R181 to R189): the window as a function of its
start, clear display on every cell, and the bytes that are no opcode. -/

namespace Sys2Proof.Machine

open Sys2Proof

/-! ### Shared by the four instructions -/

/-- An instruction transaction adds nothing to its byte (spec/30_encoding.md R94). -/
theorem packWord_instruction_toNat (db : Byte) : (packWord false false db).toNat = 0x000 + db.toNat := by
  simp [packWord_toNat]

/-- No instruction stops, so a repetition runs on from the first effect. -/
theorem execTimes_succ (n : Nat) (i : Instr) (s : State) :
    execTimes (n + 1) i s = execTimes n i (instrEffect i s) := by
  simp only [execTimes, exec_eq]

/-! ### The window, by its start -/

/-- The highest column the window can start at (spec/43_instructions.md R188). -/
def lastStart (p : Config) : Nat := p.totalColumns - p.visibleColumns

theorem lastStart_add_visible (p : Config) (hl : p.Legal) : lastStart p + p.visibleColumns = p.totalColumns :=
  Nat.sub_add_cancel hl.2.1

/-- The state whose window starts at a column and has its fixed width. -/
def State.windowAt (s : State) (start : Nat) : State :=
  { s with ws := start, we := start + s.config.visibleColumns - 1 }

section
variable {s : State}

/-- The invariants I1 to I3 leave the window's start as its one degree of freedom. -/
theorem windowAt_ws (hw : s.WindowOk) : s.windowAt s.ws = s := by
  have hwe : s.ws + s.config.visibleColumns - 1 = s.we := by have := hw.2; omega
  simp only [State.windowAt, hwe]

theorem ws_le_lastStart (hl : s.config.Legal) (hw : s.WindowOk) : s.ws ≤ lastStart s.config := by
  have := columns_pos _ hl
  have := lastStart_add_visible _ hl
  obtain ⟨hend, hwidth⟩ := hw
  omega

theorem shiftRight_of_pos (h : s.ws > 0) : shiftRight s = { s with ws := s.ws - 1, we := s.we - 1 } := if_pos h

theorem shiftLeft_of_lt (h : s.we < s.config.totalColumns - 1) :
    shiftLeft s = { s with ws := s.ws + 1, we := s.we + 1 } := if_pos h

theorem shiftLeft_of_not_lt (h : ¬ s.we < s.config.totalColumns - 1) : shiftLeft s = s := if_neg h

theorem shiftRight_windowAt (w : Nat) : shiftRight (s.windowAt w) = s.windowAt (w - 1) := by
  cases w with
  | zero => rfl
  | succ w =>
    have hwe : w + 1 + s.config.visibleColumns - 1 - 1 = w + s.config.visibleColumns - 1 := by omega
    rw [shiftRight_of_pos (Nat.succ_pos w)]
    simp only [State.windowAt, hwe, Nat.add_sub_cancel]

theorem shiftLeft_windowAt (hl : s.config.Legal) (w : Nat) (hw : w ≤ lastStart s.config) :
    shiftLeft (s.windowAt w) = s.windowAt (min (lastStart s.config) (w + 1)) := by
  have hpos := hl.1
  have hlast := lastStart_add_visible _ hl
  by_cases hroom : w + s.config.visibleColumns - 1 < s.config.totalColumns - 1
  · have hstart : min (lastStart s.config) (w + 1) = w + 1 := by omega
    have hwe : w + s.config.visibleColumns - 1 + 1 = w + 1 + s.config.visibleColumns - 1 := by omega
    rw [shiftLeft_of_lt hroom, hstart]
    simp only [State.windowAt, hwe]
  · have hstart : min (lastStart s.config) (w + 1) = w := by omega
    rw [shiftLeft_of_not_lt hroom, hstart]

theorem execTimes_shr_windowAt (n w : Nat) : execTimes n .shr (s.windowAt w) = .next (s.windowAt (w - n)) := by
  induction n generalizing w with
  | zero => rfl
  | succ n ih =>
    have hstart : w - 1 - n = w - (n + 1) := by omega
    rw [execTimes_succ, instrEffect, shiftRight_windowAt, ih, hstart]

theorem execTimes_shl_windowAt (hl : s.config.Legal) (n w : Nat) (hw : w ≤ lastStart s.config) :
    execTimes n .shl (s.windowAt w) = .next (s.windowAt (min (lastStart s.config) (w + n))) := by
  induction n generalizing w with
  | zero => rw [Nat.add_zero, min_eq_right hw]; rfl
  | succ n ih =>
    have hstart : ∀ last, min last (min last (w + 1) + n) = min last (w + (n + 1)) := by omega
    rw [execTimes_succ, instrEffect, shiftLeft_windowAt hl w hw, ih _ (min_le_left _ _), hstart]

/-- R188 for `SHR`: the start goes down to 0 and stays. -/
theorem execTimes_shr (hw : s.WindowOk) (n : Nat) : execTimes n .shr s = .next (s.windowAt (s.ws - n)) := by
  have h := execTimes_shr_windowAt (s := s) n s.ws
  rwa [windowAt_ws hw] at h

/-- R188 for `SHL`: the start goes up to its last column and stays. -/
theorem execTimes_shl (hl : s.config.Legal) (hw : s.WindowOk) (n : Nat) :
    execTimes n .shl s = .next (s.windowAt (min (lastStart s.config) (s.ws + n))) := by
  have h := execTimes_shl_windowAt hl n s.ws (ws_le_lastStart hl hw)
  rwa [windowAt_ws hw] at h

/-- `SHL` then `SHR` moves the start by nothing, or down by one when the `SHL` was clamped. -/
theorem shiftRight_shiftLeft (hl : s.config.Legal) (hw : s.WindowOk) :
    shiftRight (shiftLeft s) = s.windowAt (min (lastStart s.config) (s.ws + 1) - 1) := by
  have h := shiftLeft_windowAt hl s.ws (ws_le_lastStart hl hw)
  rw [windowAt_ws hw] at h
  rw [h, shiftRight_windowAt]

end

theorem reset_windowOk : State.reset.WindowOk := initial_windowOk _ default_legal

/-- Settles O14: in terms of the window's start, `SHR` subtracts one from it and `SHL` adds one up to the last start. -/
theorem windowShiftsSaturate : Obligations.WindowShiftsSaturate := by
  intro s hl hw
  refine ⟨execTimes_shr hw, execTimes_shl hl hw, _, _, exec_eq .shl s, exec_eq .shr _, ?_⟩
  have hmax := ws_le_lastStart hl hw
  have hws : (shiftRight (shiftLeft s)).ws = min (lastStart s.config) (s.ws + 1) - 1 :=
    congrArg State.ws (shiftRight_shiftLeft hl hw)
  refine hws.trans (show _ = if s.ws < lastStart s.config then s.ws else s.ws - 1 from ?_)
  split <;> omega

/-- Settles O12: the effect is the field lemmas of `shiftRight`, and the example is the saturation law at reset. -/
theorem shrMovesTheWindowDown : Obligations.ShrMovesTheWindowDown := by
  refine ⟨fun o => packWord_instruction_toNat o.shiftRight, fun s => ?_, execTimes_shr reset_windowOk 1,
    execTimes_shr reset_windowOk 12, execTimes_shr reset_windowOk 13⟩
  rw [exec_eq, instrEffect, Host.Outcome.next.injEq]
  apply State.ext <;> simp

/-- Settles O13: the effect is the field lemmas of `shiftLeft`, and the example is the saturation law at reset. -/
theorem shlMovesTheWindowUp : Obligations.ShlMovesTheWindowUp := by
  refine ⟨fun o => packWord_instruction_toNat o.shiftLeft, fun s => ?_, execTimes_shl default_legal reset_windowOk 1,
    execTimes_shl default_legal reset_windowOk 12, execTimes_shl default_legal reset_windowOk 13⟩
  rw [exec_eq, instrEffect, Host.Outcome.next.injEq]
  apply State.ext <;> simp

/-! ### Clear display -/

/-- A cleared cell holds a copy of the current glyph 0. -/
theorem setChar_zero (s : State) : setChar s 0 = { code := 0, bmp := s.cgram[0] } := by
  rw [setChar, resolve_of_lt s 0 (by decide)]
  rfl

theorem mem_cellOrder_addresses (p : Config) (a : Nat) :
    a ∈ (cellOrder p).map (fun x => encodeAddr p x.1 x.2) ↔
      ∃ (k : Bank) (o : Nat), o < p.totalColumns ∧ a = encodeAddr p k o := by
  simp only [List.mem_map, Prod.exists, mem_cellOrder, eq_comm]

theorem read_clearedMemory_cell (s : State) (k : Bank) (o : Nat) (ho : o < s.config.totalColumns) :
    (clearedMemory s).read (encodeAddr s.config k o) = setChar s 0 := by
  rw [read_clearedMemory, if_pos ((mem_cellOrder_addresses _ _).2 ⟨k, o, ho, rfl⟩)]

theorem read_clearedMemory_other (s : State) (a : Nat)
    (ha : ∀ (k : Bank) (o : Nat), o < s.config.totalColumns → a ≠ encodeAddr s.config k o) :
    (clearedMemory s).read a = s.ddram.read a := by
  rw [read_clearedMemory, if_neg]
  rw [mem_cellOrder_addresses]
  rintro ⟨k, o, ho, h⟩
  exact ha k o ho h

/-- Settles O15: the cells are the addresses that `clearDisplay` writes. -/
theorem clrClearsEveryCell : Obligations.ClrClearsEveryCell := by
  intro s
  refine ⟨_, exec_eq .clr s, ?_, fun k o ho => ?_, fun a ha => ?_⟩
  · rw [instrEffect, clearDisplay_eq]
    rfl
  · rw [State.cell, instrEffect_config, instrEffect, clearDisplay_ddram, read_clearedMemory_cell s k o ho,
      setChar_zero]
  · rw [instrEffect, clearDisplay_ddram, read_clearedMemory_other s a ha]

/-- In a legal construction the valid addresses are those of the cells. -/
theorem exists_cell_of_validAddr (p : Config) (hl : p.Legal) (a : Nat) (ha : validAddr p a) :
    ∃ (k : Bank) (o : Nat), o < p.totalColumns ∧ a = encodeAddr p k o :=
  ⟨_, _, decodeAddr_offset_lt p hl a, (cellAddr_of_valid p a ha).symm⟩

/-- Outside the cells a memory that lists cells alone reads as constructed. -/
theorem read_of_invalid (p : Config) (m : Memory) (hm : m.mapped p) (a : Nat) (ha : ¬ validAddr p a) :
    m.read a = Cell.blank := by
  by_contra hne
  obtain ⟨e, he, rfl⟩ := mem_of_read_ne_blank m a hne
  exact ha (hm e he)

theorem clearedMemory_eq_nil (s : State) (hl : s.config.Legal) (hm : s.MemoryOk) (hg : s.cgram[0] = Bitmap.zero) :
    clearedMemory s = [] := by
  obtain ⟨hwf, hmapped⟩ := clearedMemory_ok s hl hm
  refine eq_nil_of_reads_blank _ hwf fun a => ?_
  by_cases ha : validAddr s.config a
  · obtain ⟨k, o, ho, rfl⟩ := exists_cell_of_validAddr _ hl a ha
    rw [read_clearedMemory_cell s k o ho, setChar_zero, hg]
    rfl
  · exact read_of_invalid _ _ hmapped a ha

/-- Settles O16: the cleared memory reads blank everywhere, and its canonical form is then the empty list. -/
theorem clrRestoresTheBlankMemory : Obligations.ClrRestoresTheBlankMemory := by
  intro s hl hm hg
  rw [exec_eq, instrEffect, clearDisplay_eq, clearedMemory_eq_nil s hl hm hg]

/-! ### The bytes that are no opcode -/

theorem step_of_nop_edge {s : State} {rs rw en : Bool} {db byte : Byte} {rest : List HostCall}
    (hhost : s.host = .edge rs rw en db :: rest) (hnop : fetch s rs rw db = .nop byte) :
    step s = .next { s with host := rest, rs := rs, rw := rw, enp := en } := by
  have hfetch : fetch (s.withCalls rest) rs rw db = .nop byte := hnop
  rw [step_of_edge hhost, busEffect_eq, hfetch, instrEffect, ite_self]
  rfl

/-- The three bytes that are opcodes. -/
def opcodeBytes (o : Opcodes) : Finset (Fin 256) := {o.shiftRight.toFin, o.shiftLeft.toFin, o.clear.toFin}

theorem card_opcodeBytes (o : Opcodes) (h : o.Distinct) : (opcodeBytes o).card = 3 := by
  obtain ⟨hclearLeft, hclearRight, hleftRight⟩ := h
  have hne : ∀ {a b : Byte}, a ≠ b → a.toFin ≠ b.toFin := fun hab => mt (congrArg BitVec.ofFin) hab
  exact Finset.card_eq_three.2 ⟨_, _, _, hne hleftRight.symm, hne hclearRight.symm, hne hclearLeft.symm, rfl⟩

theorem decodeByte_ofFin_eq_nop_iff (o : Opcodes) (n : Fin 256) :
    decodeByte o (BitVec.ofFin n) = .nop (BitVec.ofFin n) ↔ n ∉ opcodeBytes o := by
  have hbyte : ∀ b : Byte, BitVec.ofFin n = b ↔ n = b.toFin := fun b =>
    ⟨congrArg BitVec.toFin, fun h => h ▸ rfl⟩
  simp only [decodeByte_eq_nop_iff, ne_eq, hbyte, opcodeBytes, Finset.mem_insert, Finset.mem_singleton, not_or]

/-- Of the 256 bytes, all but the three opcodes are `NOP`. -/
theorem length_nop_bytes (o : Opcodes) (h : o.Distinct) :
    ((List.finRange 256).filter (fun n => decodeByte o (BitVec.ofFin n) = .nop (BitVec.ofFin n))).length = 253 := by
  calc ((List.finRange 256).filter (fun n => decodeByte o (BitVec.ofFin n) = .nop (BitVec.ofFin n))).length
      = (Finset.univ.filter (fun n => n ∉ opcodeBytes o)).card := by
        simp only [decodeByte_ofFin_eq_nop_iff]
        rfl
    _ = (opcodeBytes o)ᶜ.card := by rw [Finset.filter_notMem_eq_sdiff, Finset.compl_eq_univ_sdiff]
    _ = 253 := by rw [Finset.card_compl, card_opcodeBytes o h, Fintype.card_fin]

/-- Settles O17: a byte that is no opcode is fetched as `NOP`, whose effect is the state itself. -/
theorem nopChangesNothing : Obligations.NopChangesNothing := by
  refine ⟨fun byte s => exec_eq (.nop byte) s, fun s db rest hclear hleft hright hhost => ?_, length_nop_bytes⟩
  have hnop := (decodeByte_eq_nop_iff s.config.opcodes db).2 ⟨hright, hleft, hclear⟩
  exact step_of_nop_edge hhost ((fetch_instruction s db).trans hnop)

end Sys2Proof.Machine
end

section
/-! PROOFS. The address-counter engine (spec/44_data_write.md R214 to R219): one equation per case, what a single data
write does to AC, and that the two directions are inverse. -/

namespace Sys2Proof.Machine

open Sys2Proof

/-! ### The engine, by case -/

theorem nextAC_increment_bank0End (p : Config) : nextAC p .increment p.bank0End = p.bank1Base := if_pos rfl

theorem nextAC_decrement_bank1Base (p : Config) : nextAC p .decrement p.bank1Base = p.bank0End := if_pos rfl

theorem nextAC_increment_of_ne (p : Config) (a : Nat) (h0 : a ≠ p.bank0End) (h1 : a ≠ p.bank1End) :
    nextAC p .increment a = acSucc p a := by
  simp only [nextAC, h0, h1, if_false]

theorem nextAC_decrement_of_ne (p : Config) (a : Nat) (h0 : a ≠ p.bank0Base) (h1 : a ≠ p.bank1Base) :
    nextAC p .decrement a = acPred p a := by
  simp only [nextAC, h0, h1, if_false]

section
variable (p : Config) (hl : p.Legal)
include hl

theorem validAddr_bank0Base : validAddr p p.bank0Base :=
  validAddr_encodeAddr p hl .bank0 0 (columns_pos p hl)

theorem validAddr_bank1Base : validAddr p p.bank1Base :=
  validAddr_encodeAddr p hl .bank1 0 (columns_pos p hl)

theorem bank0Base_le_bank0End : p.bank0Base ≤ p.bank0End := by
  have := bank0End_succ p hl; have := columns_pos p hl; omega

theorem bank1Base_le_bank1End : p.bank1Base ≤ p.bank1End := by
  have := bank1End_succ p hl; have := columns_pos p hl; omega

theorem nextAC_increment_bank1End : nextAC p .increment p.bank1End = p.bank0Base := by
  have hne : p.bank1End ≠ p.bank0End := by
    have := bank0End_lt_bank1Base p hl; have := bank1Base_le_bank1End p hl; omega
  simp only [nextAC, hne, if_false, if_true]

theorem bank0Base_ne_bank1Base : p.bank0Base ≠ p.bank1Base := by
  have := bank0End_lt_bank1Base p hl; have := bank0Base_le_bank0End p hl; omega

theorem nextAC_decrement_bank0Base_of_wrap (hp : p.decUnderflow = .wrapToBank1End) :
    nextAC p .decrement p.bank0Base = p.bank1End := by
  simp only [nextAC, bank0Base_ne_bank1Base p hl, hp, if_false, if_true]

theorem nextAC_decrement_bank0Base_of_freeRun (hp : p.decUnderflow = .freeRun) :
    nextAC p .decrement p.bank0Base = acPred p p.bank0Base := by
  simp only [nextAC, bank0Base_ne_bank1Base p hl, hp, if_false, if_true]

variable (a : Nat)

/-- Away from the bank ends the increment does not wrap. -/
theorem nextAC_increment_inside (ha : validAddr p a) (h0 : a ≠ p.bank0End) (h1 : a ≠ p.bank1End) :
    nextAC p .increment a = a + 1 := by
  have hmod := bank1End_lt_acMod p hl
  have hbanks := bank0End_lt_bank1Base p hl
  rw [nextAC_increment_of_ne p a h0 h1, acSucc_of_lt p a (by omega)]

/-- Away from the bank starts the decrement does not wrap. -/
theorem nextAC_decrement_inside (ha : validAddr p a) (h0 : a ≠ p.bank0Base) (h1 : a ≠ p.bank1Base) :
    nextAC p .decrement a + 1 = a := by
  have hpos : 0 < a := by omega
  rw [nextAC_decrement_of_ne p a h0 h1, acPred_of_pos p a hpos (validAddr_lt_acMod p hl a ha)]
  omega

theorem nextAC_increment_of_invalid (ha : ¬ validAddr p a) : nextAC p .increment a = acSucc p a := by
  have := bank0Base_le_bank0End p hl
  have := bank1Base_le_bank1End p hl
  exact nextAC_increment_of_ne p a (by omega) (by omega)

theorem nextAC_decrement_of_invalid (ha : ¬ validAddr p a) : nextAC p .decrement a = acPred p a :=
  nextAC_decrement_of_ne p a (fun h => ha (h ▸ validAddr_bank0Base p hl))
    (fun h => ha (h ▸ validAddr_bank1Base p hl))

/-! ### The two directions are inverse -/

theorem nextAC_decrement_increment (hp : p.decUnderflow = .wrapToBank1End) (ha : validAddr p a) :
    nextAC p .decrement (nextAC p .increment a) = a := by
  by_cases h0 : a = p.bank0End
  · rw [h0, nextAC_increment_bank0End, nextAC_decrement_bank1Base]
  by_cases h1 : a = p.bank1End
  · rw [h1, nextAC_increment_bank1End p hl, nextAC_decrement_bank0Base_of_wrap p hl hp]
  · have hinside := nextAC_increment_inside p hl a ha h0 h1
    have hvalid := validAddr_nextAC p hl hp .increment a ha
    have hbanks := bank0End_lt_bank1Base p hl
    rw [hinside] at hvalid ⊢
    exact Nat.succ_injective (nextAC_decrement_inside p hl (a + 1) hvalid (by omega) (by omega))

theorem nextAC_increment_decrement (hp : p.decUnderflow = .wrapToBank1End) (ha : validAddr p a) :
    nextAC p .increment (nextAC p .decrement a) = a := by
  by_cases h0 : a = p.bank0Base
  · rw [h0, nextAC_decrement_bank0Base_of_wrap p hl hp, nextAC_increment_bank1End p hl]
  by_cases h1 : a = p.bank1Base
  · rw [h1, nextAC_decrement_bank1Base, nextAC_increment_bank0End]
  · have hinside := nextAC_decrement_inside p hl a ha h0 h1
    have hvalid := validAddr_nextAC p hl hp .decrement a ha
    have hbanks := bank0End_lt_bank1Base p hl
    have hbank1 := bank1Base_le_bank1End p hl
    rw [nextAC_increment_inside p hl _ hvalid (by omega) (by omega), hinside]

end

/-- Settles O26: validity is the engine's invariant, and each direction is undone case by case. -/
theorem addressEngineIsAPermutation : Obligations.AddressEngineIsAPermutation := fun p hl hp a ha =>
  ⟨fun em => validAddr_nextAC p hl hp em a ha, nextAC_decrement_increment p hl a hp ha,
    nextAC_increment_decrement p hl a hp ha⟩

/-! ### One data write -/

theorem exec_data (v : Byte) (s : State) : exec (.data v) s = .next (writeData s v) := exec_eq (.data v) s

/-- Settles O19: the write is read back at its cell and nowhere else, and `writeData_eq` is the frame. -/
theorem dataWriteStoresOneCell : Obligations.DataWriteStoresOneCell := by
  refine ⟨fun o v => by simp [encode, packWord_toNat], fun s v => ⟨writeData s v, exec_data v s, ?_⟩⟩
  obtain ⟨hws, hwe⟩ := writeData_window s v
  refine ⟨?_, fun a ha => ?_, fun hsm => ?_, fun hsm => ?_, fun hsm => ?_, writeData_ac s v, ?_⟩
  · rw [State.cell, writeData_config, writeData_ddram]
    exact read_write_same ..
  · rw [writeData_ddram]
    exact read_write_other _ _ _ _ ha
  · rw [hws, hwe, autoShift_of_none s hsm]
    exact ⟨rfl, rfl⟩
  · rw [hws, hwe, autoShift, hsm]
    exact ⟨rfl, rfl⟩
  · rw [hws, hwe, autoShift, hsm]
    exact ⟨rfl, rfl⟩
  · rw [writeData_eq]

/-- Settles O22: AC is the engine's next address, at each bank end. -/
theorem incrementWrapsAtTheBankEnds : Obligations.IncrementWrapsAtTheBankEnds := by
  intro s v hl hem
  refine ⟨_, exec_data v s, fun hac => ?_, fun hac => ?_⟩
  · rw [writeData_ac, hem, hac, nextAC_increment_bank0End]
  · rw [writeData_ac, hem, hac, nextAC_increment_bank1End _ hl]

/-- Settles O23: AC is the engine's next address, at each bank start and under each policy. -/
theorem decrementWrapsAtTheBankStarts : Obligations.DecrementWrapsAtTheBankStarts := by
  intro s v hl hem
  refine ⟨_, exec_data v s, fun hac => ?_, fun hac hp => ?_, fun hac hp => ?_⟩
  · rw [writeData_ac, hem, hac, nextAC_decrement_bank1Base]
  · rw [writeData_ac, hem, hac, nextAC_decrement_bank0Base_of_wrap _ hl hp]
  · rw [writeData_ac, hem, hac, nextAC_decrement_bank0Base_of_freeRun _ hl hp]
    rfl

/-- Settles O24: AC is the engine's next address, inside a bank. -/
theorem addressCounterStepsByOne : Obligations.AddressCounterStepsByOne := by
  intro s v hl hok
  refine ⟨_, exec_data v s, fun hem h0 h1 => ?_, fun hem h0 h1 => ?_⟩
  · rw [writeData_ac, hem, nextAC_increment_inside _ hl _ hok h0 h1]
  · rw [writeData_ac, hem, nextAC_decrement_inside _ hl _ hok h0 h1]

/-- Settles O25: AC is the engine's next address, outside the banks. -/
theorem invalidAddressStepsModulo : Obligations.InvalidAddressStepsModulo := by
  intro s v hl hinvalid
  refine ⟨_, exec_data v s, fun hem => ?_, fun hem => ?_⟩
  · rw [writeData_ac, hem, nextAC_increment_of_invalid _ hl _ hinvalid]
    rfl
  · rw [writeData_ac, hem, nextAC_decrement_of_invalid _ hl _ hinvalid]
    rfl

end Sys2Proof.Machine
end

section
/-! PROOFS. Runs of data transactions (spec/44_data_write.md R220, R225): the cycle of all cells, AC's walk along it,
and the cells a run leaves written. -/

namespace Sys2Proof.Machine

open Sys2Proof

/-! ### The cycle of all cells -/

/-- The address of the cell at a position of the cycle. -/
def cycleAddr (p : Config) (k : Nat) : Nat := encodeAddr p (cellAtPos p k).1 (cellAtPos p k).2

section
variable (p : Config)

theorem cycleAddr_of_lt (k : Nat) (hk : k < p.totalColumns) : cycleAddr p k = encodeAddr p .bank0 k := by
  rw [cycleAddr, cellAtPos, if_pos hk]

theorem cycleAddr_add_columns (o : Nat) : cycleAddr p (p.totalColumns + o) = encodeAddr p .bank1 o := by
  rw [cycleAddr, cellAtPos, if_neg (by omega), Nat.add_sub_cancel_left]

theorem cycleAddr_columns : cycleAddr p p.totalColumns = p.bank1Base := cycleAddr_add_columns p 0

/-- A position of the cycle is a column of bank 0 or lies that many places after bank 1's first cell. -/
theorem position_cases (k : Nat) (hk : k < 2 * p.totalColumns) :
    k < p.totalColumns ∨ ∃ o < p.totalColumns, k = p.totalColumns + o := by
  by_cases h0 : k < p.totalColumns
  · exact .inl h0
  · exact .inr ⟨k - p.totalColumns, by omega, by omega⟩

variable (hl : p.Legal)
include hl

theorem cycleAddr_zero : cycleAddr p 0 = p.bank0Base := cycleAddr_of_lt p 0 (columns_pos p hl)

theorem validAddr_cycleAddr (k : Nat) (hk : k < 2 * p.totalColumns) : validAddr p (cycleAddr p k) := by
  obtain h0 | ⟨o, ho, rfl⟩ := position_cases p k hk
  · exact cycleAddr_of_lt p k h0 ▸ validAddr_encodeAddr p hl .bank0 k h0
  · exact cycleAddr_add_columns p o ▸ validAddr_encodeAddr p hl .bank1 o ho

/-- Each position is the position of its own address. -/
theorem cyclePos_cycleAddr (k : Nat) (hk : k < 2 * p.totalColumns) : cyclePos p (cycleAddr p k) = k := by
  obtain h0 | ⟨o, ho, rfl⟩ := position_cases p k hk
  · rw [cycleAddr_of_lt p k h0, cyclePos, decodeAddr_encodeAddr p hl .bank0 k h0]
  · rw [cycleAddr_add_columns, cyclePos, decodeAddr_encodeAddr p hl .bank1 o ho]

theorem cycleAddr_inj (j k : Nat) (hj : j < 2 * p.totalColumns) (hk : k < 2 * p.totalColumns)
    (h : cycleAddr p j = cycleAddr p k) : j = k := by
  rw [← cyclePos_cycleAddr p hl j hj, h, cyclePos_cycleAddr p hl k hk]

/-- The valid addresses are those on the cycle. -/
theorem exists_cycleAddr_of_validAddr (a : Nat) (ha : validAddr p a) :
    ∃ k < 2 * p.totalColumns, a = cycleAddr p k := by
  obtain ⟨bank, o, ho, rfl⟩ := exists_cell_of_validAddr p hl a ha
  cases bank with
  | bank0 => exact ⟨o, by omega, (cycleAddr_of_lt p o ho).symm⟩
  | bank1 => exact ⟨p.totalColumns + o, by omega, (cycleAddr_add_columns p o).symm⟩

/-! ### The engine on the cycle -/

theorem nextAC_increment_cycleAddr (k : Nat) (hk : k < 2 * p.totalColumns) :
    nextAC p .increment (cycleAddr p k) = cycleAddr p ((k + 1) % (2 * p.totalColumns)) := by
  have hend0 := bank0End_succ p hl
  have hend1 := bank1End_succ p hl
  have hvalid := validAddr_cycleAddr p hl k hk
  obtain h0 | ⟨o, ho, rfl⟩ := position_cases p k hk
  · have haddr : cycleAddr p k = p.bank0Base + k := cycleAddr_of_lt p k h0
    rw [Nat.mod_eq_of_lt (by omega)]
    by_cases hlast : k + 1 = p.totalColumns
    · have hend : cycleAddr p k = p.bank0End := by omega
      rw [hend, hlast, nextAC_increment_bank0End, cycleAddr_columns]
    · rw [nextAC_increment_inside p hl _ hvalid (by omega) (by omega), haddr, cycleAddr_of_lt p _ (by omega)]
      rfl
  · have haddr : cycleAddr p (p.totalColumns + o) = p.bank1Base + o := cycleAddr_add_columns p o
    by_cases hlast : o + 1 = p.totalColumns
    · have hend : cycleAddr p (p.totalColumns + o) = p.bank1End := by omega
      have hwrap : p.totalColumns + o + 1 = 2 * p.totalColumns := by omega
      rw [hend, hwrap, Nat.mod_self, nextAC_increment_bank1End p hl, cycleAddr_zero p hl]
    · rw [Nat.mod_eq_of_lt (by omega), nextAC_increment_inside p hl _ hvalid (by omega) (by omega), haddr,
        Nat.add_assoc p.totalColumns, cycleAddr_add_columns]
      rfl

variable (a : Nat) (ha : validAddr p a)
include ha

theorem cyclePos_lt : cyclePos p a < 2 * p.totalColumns := by
  obtain ⟨k, hk, rfl⟩ := exists_cycleAddr_of_validAddr p hl a ha
  rwa [cyclePos_cycleAddr p hl k hk]

theorem cycleAddr_cyclePos : cycleAddr p (cyclePos p a) = a := by
  obtain ⟨k, hk, rfl⟩ := exists_cycleAddr_of_validAddr p hl a ha
  rw [cyclePos_cycleAddr p hl k hk]

/-- The increment stays on the cycle, whatever `DEC_UNDERFLOW` is, and is one place along it. -/
theorem nextAC_increment_on_cycle :
    validAddr p (nextAC p .increment a) ∧
      cyclePos p (nextAC p .increment a) = (cyclePos p a + 1) % (2 * p.totalColumns) := by
  obtain ⟨k, hk, rfl⟩ := exists_cycleAddr_of_validAddr p hl a ha
  have hnext : (k + 1) % (2 * p.totalColumns) < 2 * p.totalColumns := Nat.mod_lt _ (by omega)
  rw [nextAC_increment_cycleAddr p hl k hk, cyclePos_cycleAddr p hl k hk]
  exact ⟨validAddr_cycleAddr p hl _ hnext, cyclePos_cycleAddr p hl _ hnext⟩

/-- The decrement is one place back, for the increment undoes it. -/
theorem cyclePos_nextAC_decrement (hp : p.decUnderflow = .wrapToBank1End) :
    (cyclePos p (nextAC p .decrement a) + 1) % (2 * p.totalColumns) = cyclePos p a := by
  obtain ⟨-, hpos⟩ := nextAC_increment_on_cycle p hl _ (validAddr_nextAC p hl hp .decrement a ha)
  rw [← hpos, nextAC_increment_decrement p hl a hp ha]

end

/-! ### Data transactions -/

/-- What one `DATA` transaction does: the write, under the latch its two bus calls leave. -/
def dataTransaction (s : State) (v : Byte) : State := (writeData s v).withLatch true false false

/-- What a list of `DATA` transactions does. -/
def dataTransactions (vs : List Byte) (s : State) : State := vs.foldl dataTransaction s

theorem runCalls_dataCalls_append (v : Byte) (calls : List HostCall) (s : State) :
    runCalls (dataCalls v ++ calls) s = runCalls calls (dataTransaction s v) := by
  have hhigh : countFalling s.enp [true] = 0 := by simp [countFalling]
  have hrise := serve_data_edge s true v (.edge true false false v :: calls)
  rw [hhigh] at hrise
  have hfall := serve_data_edge (s.withLatch true false true) false v calls
  rw [writeTimes_withLatch] at hfall
  rw [dataCalls, pulse, List.cons_append, List.cons_append, List.nil_append, runCalls_cons hrise]
  exact runCalls_cons hfall

theorem runCalls_flatMap_dataCalls (vs : List Byte) (s : State) :
    runCalls (vs.flatMap dataCalls) s = .next ((dataTransactions vs s).withCalls []) := by
  induction vs generalizing s with
  | nil => rfl
  | cons v vs ih => rw [List.flatMap_cons, runCalls_dataCalls_append, ih]; rfl

section
variable (vs : List Byte) (s : State)

theorem dataTransactions_cons (v : Byte) :
    dataTransactions (v :: vs) s = dataTransactions vs (dataTransaction s v) := rfl

theorem dataTransactions_concat (v : Byte) :
    dataTransactions (vs ++ [v]) s = dataTransaction (dataTransactions vs s) v := List.foldl_concat ..

@[simp] theorem dataTransaction_config (v : Byte) : (dataTransaction s v).config = s.config := writeData_config s v
@[simp] theorem dataTransaction_cgram (v : Byte) : (dataTransaction s v).cgram = s.cgram := writeData_cgram s v
@[simp] theorem dataTransaction_em (v : Byte) : (dataTransaction s v).em = s.em := writeData_em s v
@[simp] theorem dataTransaction_ac (v : Byte) : (dataTransaction s v).ac = nextAC s.config s.em s.ac :=
  writeData_ac s v
@[simp] theorem dataTransaction_ddram (v : Byte) :
    (dataTransaction s v).ddram = s.ddram.write (cellAddr s.config s.ac) (setChar s v) := writeData_ddram s v

@[simp] theorem dataTransactions_config : (dataTransactions vs s).config = s.config := by
  induction vs generalizing s with
  | nil => rfl
  | cons v vs ih => rw [dataTransactions_cons, ih, dataTransaction_config]

@[simp] theorem dataTransactions_cgram : (dataTransactions vs s).cgram = s.cgram := by
  induction vs generalizing s with
  | nil => rfl
  | cons v vs ih => rw [dataTransactions_cons, ih, dataTransaction_cgram]

/-! ### AC's walk along the cycle -/

variable (hl : s.config.Legal) (hok : s.AcOk)
include hl hok

theorem ac_dataTransactions_increment (hem : s.em = .increment) :
    validAddr s.config (dataTransactions vs s).ac ∧
      cyclePos s.config (dataTransactions vs s).ac =
        (cyclePos s.config s.ac + vs.length) % (2 * s.config.totalColumns) := by
  induction vs generalizing s with
  | nil => exact ⟨hok, (Nat.mod_eq_of_lt (cyclePos_lt s.config hl s.ac hok)).symm⟩
  | cons v vs ih =>
    obtain ⟨hvalid, hpos⟩ := nextAC_increment_on_cycle s.config hl s.ac hok
    have hnext := ih (dataTransaction s v)
    simp only [dataTransaction_config, dataTransaction_em, dataTransaction_ac, State.AcOk, hem, hpos,
      Nat.mod_add_mod] at hnext
    rw [dataTransactions_cons, List.length_cons, Nat.add_comm vs.length, ← Nat.add_assoc]
    exact hnext hl hvalid trivial

theorem ac_dataTransactions_decrement (hem : s.em = .decrement) (hp : s.config.decUnderflow = .wrapToBank1End) :
    validAddr s.config (dataTransactions vs s).ac ∧
      (cyclePos s.config (dataTransactions vs s).ac + vs.length) % (2 * s.config.totalColumns) =
        cyclePos s.config s.ac := by
  induction vs generalizing s with
  | nil => exact ⟨hok, Nat.mod_eq_of_lt (cyclePos_lt s.config hl s.ac hok)⟩
  | cons v vs ih =>
    have hnext := ih (dataTransaction s v)
    simp only [dataTransaction_config, dataTransaction_em, dataTransaction_ac, State.AcOk, hem] at hnext
    obtain ⟨hvalid, hpos⟩ := hnext hl (validAddr_nextAC s.config hl hp .decrement s.ac hok) trivial hp
    refine ⟨hvalid, ?_⟩
    rw [dataTransactions_cons, List.length_cons, ← Nat.add_assoc, ← Nat.mod_add_mod, hpos]
    exact cyclePos_nextAC_decrement s.config hl s.ac hok hp

end

/-- Settles O27: each transaction moves AC one place along the cycle, or one place back. -/
theorem writesAdvanceAlongTheCycle : Obligations.WritesAdvanceAlongTheCycle := by
  intro s vs hl hok
  refine ⟨_, runCalls_flatMap_dataCalls vs s, ?_⟩
  rw [withCalls_config, withCalls_ac, dataTransactions_config]
  exact ⟨ac_dataTransactions_increment vs s hl hok, ac_dataTransactions_decrement vs s hl hok⟩

/-! ### The cells a run from bank 0's start leaves written -/

section
variable (s : State) (hl : s.config.Legal) (hem : s.em = .increment) (hac : s.ac = s.config.bank0Base)
include hl hem hac

theorem ac_dataTransactions_from_start (vs : List Byte) :
    (dataTransactions vs s).ac = cycleAddr s.config (vs.length % (2 * s.config.totalColumns)) := by
  have hok : s.AcOk := by rw [State.AcOk, hac]; exact validAddr_bank0Base s.config hl
  have hstart : cyclePos s.config s.ac = 0 := by
    rw [hac, ← cycleAddr_zero s.config hl, cyclePos_cycleAddr s.config hl 0 (by omega)]
  obtain ⟨hvalid, hpos⟩ := ac_dataTransactions_increment vs s hl hok hem
  rw [hstart, Nat.zero_add] at hpos
  rw [← hpos, cycleAddr_cyclePos s.config hl _ hvalid]

/-- The last transaction writes the cell whose position is the number of transactions before it. -/
theorem read_dataTransactions_from_start (vs : List Byte) (hlen : vs.length ≤ 2 * s.config.totalColumns) (k : Nat)
    (hk : k < 2 * s.config.totalColumns) :
    (dataTransactions vs s).ddram.read (cycleAddr s.config k) =
      vs[k]?.elim (s.ddram.read (cycleAddr s.config k)) (setChar s) := by
  induction vs using List.reverseRecOn with
  | nil => rfl
  | append_singleton vs v ih =>
    rw [List.length_append, List.length_singleton] at hlen
    have hac' : (dataTransactions vs s).ac = cycleAddr s.config vs.length := by
      rw [ac_dataTransactions_from_start s hl hem hac, Nat.mod_eq_of_lt (by omega)]
    have hcell : setChar (dataTransactions vs s) v = setChar s v :=
      setChar_congr _ _ v (dataTransactions_cgram vs s) (dataTransactions_config vs s)
    rw [dataTransactions_concat, dataTransaction_ddram, dataTransactions_config, hac', hcell,
      cellAddr_of_valid _ _ (validAddr_cycleAddr _ hl _ (by omega)), read_write]
    obtain rfl | hne := eq_or_ne k vs.length
    · simp
    · have haddr : cycleAddr s.config k ≠ cycleAddr s.config vs.length :=
        fun h => hne (cycleAddr_inj _ hl k vs.length hk (by omega) h)
      have hget : (vs ++ [v])[k]? = vs[k]? := by grind
      rw [if_neg haddr, ih (by omega), hget]

end

/-- Settles O28: the cell at each position holds what its own transaction wrote, or what it held. -/
theorem writesVisitEveryCellInOrder : Obligations.WritesVisitEveryCellInOrder := by
  intro s vs hl hem hac hlen
  have hfinal := ac_dataTransactions_from_start s hl hem hac vs
  have hcell (k : Nat) (hk : k < 2 * s.config.totalColumns) :
      ((dataTransactions vs s).withCalls []).cell (cellAtPos s.config k).1 (cellAtPos s.config k).2 =
        vs[k]?.elim (s.cell (cellAtPos s.config k).1 (cellAtPos s.config k).2) (setChar s) := by
    rw [State.cell, withCalls_config, withCalls_ddram, dataTransactions_config]
    exact read_dataTransactions_from_start s hl hem hac vs hlen k hk
  refine ⟨_, runCalls_flatMap_dataCalls vs s, fun k hk => ?_, fun k hk hk' => ?_, fun hn => ?_, fun hn => ?_⟩
  · rw [hcell k (by omega), List.getElem?_eq_getElem hk]
    rfl
  · rw [hcell k hk', List.getElem?_eq_none hk]
    rfl
  · rw [withCalls_ac, hfinal, hn, Nat.mod_eq_of_lt (by omega), cycleAddr_columns]
  · rw [withCalls_ac, hfinal, hn, Nat.mod_self, cycleAddr_zero _ hl]

end Sys2Proof.Machine
end

section
/-! PROOFS. Render and cursor (spec/45_render_cursor.md R240 to R244): the codes inside the window, and the overlay on
row 7 of AC's cell. -/

namespace Sys2Proof.Machine

open Sys2Proof

/-! ### The codes inside the window -/

theorem mem_visibleColumns (s : State) (o : Nat) : o ∈ visibleColumns s ↔ s.ws ≤ o ∧ o ≤ s.we := by
  rw [visibleColumns, List.mem_range'_1]
  omega

theorem length_visibleCodes (s : State) (k : Bank) : (visibleCodes s k).length = s.we + 1 - s.ws := by
  rw [visibleCodes, List.length_map, visibleColumns, List.length_range']

theorem getElem?_visibleCodes (s : State) (k : Bank) (n : Nat) (h : n < s.we + 1 - s.ws) :
    (visibleCodes s k)[n]? = some (s.cell k (s.ws + n)).code := by
  rw [visibleCodes, visibleColumns, List.getElem?_map, List.getElem?_range' h, Nat.one_mul, Option.map_some]

theorem visibleCodes_congr (s t : State) (k : Bank) (hws : s.ws = t.ws) (hwe : s.we = t.we)
    (h : ∀ o : Nat, s.ws ≤ o → o ≤ s.we → (s.cell k o).code = (t.cell k o).code) :
    visibleCodes s k = visibleCodes t k := by
  have hcolumns : visibleColumns s = visibleColumns t := by rw [visibleColumns, hws, hwe, visibleColumns]
  have hcodes : ∀ o ∈ visibleColumns s, (s.cell k o).code = (t.cell k o).code := by
    intro o ho
    obtain ⟨hfirst, hlast⟩ := (mem_visibleColumns s o).1 ho
    exact h o hfirst hlast
  rw [visibleCodes, List.map_congr_left hcodes, hcolumns, visibleCodes]

/-- What `render` hands the sink. -/
def visibleFrame (s : State) : Frame where
  row0 := visibleCodes s .bank0
  row1 := visibleCodes s .bank1

theorem step_render (s : State) (rest : List HostCall) (hh : s.host = .render :: rest) :
    step s = .next { s with host := rest, sink := s.sink ++ [visibleFrame s] } :=
  step_of_cons s _ rest hh

/-- Settles O35: a window in place has VISIBLE_COLUMNS columns, and the frame lists their codes. -/
theorem renderHandsOverTheWindow : Obligations.RenderHandsOverTheWindow := by
  intro s rest hw hh
  have hwidth : s.we + 1 - s.ws = s.config.visibleColumns := by omega
  have hlen (k : Bank) : (visibleCodes s k).length = s.config.visibleColumns :=
    (length_visibleCodes s k).trans hwidth
  have hget (k : Bank) (n : Nat) (hn : n < s.config.visibleColumns) :
      (visibleCodes s k)[n]? = some (s.cell k (s.ws + n)).code :=
    getElem?_visibleCodes s k n (hwidth ▸ hn)
  exact ⟨visibleFrame s, step_render s rest hh, hlen .bank0, hlen .bank1,
    fun n hn => ⟨hget .bank0 n hn, hget .bank1 n hn⟩⟩

/-- Settles O36: states that agree on the window and the codes inside it hand over the same frame. -/
theorem renderReadsCodesOnly : Obligations.RenderReadsCodesOnly := by
  intro s t rest rest' hs ht hws hwe hcodes
  have hframe : visibleFrame t = visibleFrame s := by
    rw [visibleFrame, visibleFrame, visibleCodes_congr s t .bank0 hws hwe (hcodes .bank0),
      visibleCodes_congr s t .bank1 hws hwe (hcodes .bank1)]
  exact ⟨_, _, visibleFrame s, step_render s rest hs, step_render t rest' ht, rfl, by rw [hframe]⟩

/-! ### The cursor overlay -/

/-- A step that serves `updateCursor` leaves the overlay of its own state under the calls that remain. -/
theorem step_updateCursor (s : State) (rest : List HostCall) (hh : s.host = .updateCursor :: rest) :
    step s = .next ((updateCursor s).withCalls rest) :=
  (step_of_cons s _ rest hh).trans (congrArg Host.Outcome.next (updateCursor_withCalls s rest))

/-- The cell the overlay leaves at AC: `setCursorBar` of it, toggled after that when B = 1. -/
def cursorCell (s : State) : Cell :=
  if s.b then toggleCursorBar (setCursorBar (memRead s s.ac)) else setCursorBar (memRead s s.ac)

theorem cursorCell_eq (s : State) :
    cursorCell s = { code := (memRead s s.ac).code, bmp := (memRead s s.ac).bmp.set 7 (cursorRow s) } := by
  cases hb : s.b <;> simp [cursorCell, cursorRow, hb, setCursorBar, toggleCursorBar]

theorem cursorCell_row_seven (s : State) : (cursorCell s).bmp[7] = cursorRow s := by
  rw [cursorCell_eq]
  exact Vector.getElem_set_self _

section
variable (s : State)

theorem updateCursor_of_cursor_off (hc : s.c = false) : updateCursor s = s := by
  simp [updateCursor_eq, hc]

variable (hc : s.c = true)
include hc

theorem updateCursor_of_cursor_on : updateCursor s = memPut s s.ac (cursorCell s) := by
  rw [updateCursor_eq, if_pos hc, cursorCell_eq]
  rfl

theorem memRead_updateCursor : memRead (updateCursor s) s.ac = cursorCell s := by
  simp [updateCursor_of_cursor_on s hc, memRead_eq]

/-- The overlay of a cell that has it is that cell: row 7 is set to what it holds. -/
theorem cursorCell_updateCursor : cursorCell (updateCursor s) = cursorCell s := by
  have hrow : cursorRow (updateCursor s) = cursorRow s := by rw [cursorRow, updateCursor_b, cursorRow]
  rw [cursorCell_eq, updateCursor_ac, memRead_updateCursor s hc, hrow, cursorCell_eq]
  simp

end

/-- A second `updateCursor` changes nothing. -/
theorem updateCursor_idem (s : State) : updateCursor (updateCursor s) = updateCursor s := by
  cases hc : s.c with
  | false => rw [updateCursor_of_cursor_off s hc, updateCursor_of_cursor_off s hc]
  | true =>
    have hc' : (updateCursor s).c = true := (updateCursor_c s).trans hc
    rw [updateCursor_of_cursor_on _ hc', cursorCell_updateCursor s hc, updateCursor_of_cursor_on s hc]
    apply State.ext <;> simp

/-- Settles O37: with C = 0 the overlay is no operation, with C = 1 it is one write at AC's cell. -/
theorem updateCursorWritesRowSeven : Obligations.UpdateCursorWritesRowSeven := by
  intro s rest hh
  rw [step_updateCursor s rest hh]
  refine ⟨fun hc => ?_, fun hc => ⟨_, rfl, ?_, ?_, fun a ha => ?_⟩⟩
  · rw [updateCursor_of_cursor_off s hc]
    rfl
  · rw [updateCursor_of_cursor_on s hc]
    rfl
  · rw [updateCursor_of_cursor_on s hc]
    exact read_write_same _ _ (cursorCell s)
  · rw [updateCursor_of_cursor_on s hc]
    exact read_write_other _ _ a (cursorCell s) ha

/-- Two `updateCursor` calls, step by step: the second leaves what the first left. -/
theorem step_step_updateCursor (s : State) (rest : List HostCall)
    (hh : s.host = .updateCursor :: .updateCursor :: rest) :
    step s = .next ((updateCursor s).withCalls (.updateCursor :: rest)) ∧
      step ((updateCursor s).withCalls (.updateCursor :: rest)) = .next ((updateCursor s).withCalls rest) := by
  refine ⟨step_updateCursor s _ hh, (step_updateCursor _ rest rfl).trans (congrArg Host.Outcome.next ?_)⟩
  calc (updateCursor ((updateCursor s).withCalls (.updateCursor :: rest))).withCalls rest
    _ = (updateCursor (updateCursor s)).withCalls rest := by rw [updateCursor_withCalls]; rfl
    _ = (updateCursor s).withCalls rest := by rw [updateCursor_idem]

/-- Settles O38: the second overlay is the first one again, and with B = 1 it leaves row 7 of AC's cell at 0. -/
theorem updateCursorTwiceIsOnce : Obligations.UpdateCursorTwiceIsOnce := by
  intro s rest hh
  obtain ⟨hfirst, hsecond⟩ := step_step_updateCursor s rest hh
  refine ⟨_, _, hfirst, hsecond, rfl, fun hc hb => ?_⟩
  have hcell : memRead ((updateCursor s).withCalls rest) ((updateCursor s).withCalls rest).ac = cursorCell s := by
    rw [withCalls_ac, updateCursor_ac]
    exact memRead_updateCursor s hc
  have hrow : (cursorCell s).bmp[7] = 0 := by rw [cursorCell_row_seven, cursorRow, if_pos hb]
  rw [hcell, hrow]
  exact ⟨rfl, eq_comm⟩

end Sys2Proof.Machine
end

section
/-! PROOFS. The facade and the host ports (spec/46_facade_host_ports.md R260 to R266): `sendData` and `refresh` as the
operations they stand for, what makes a `Preset` or a `Query` legal, and what each then does. -/

namespace Sys2Proof.Machine

open Sys2Proof

/-! ### `sendData` and the data transaction -/

theorem runCalls_sendData (v : Byte) (s : State) :
    runCalls [.sendData v] s = .next ((writeData s v).withCalls []) :=
  runCalls_cons (serve_sendData s v [])

theorem runCalls_dataCalls (v : Byte) (s : State) :
    runCalls (dataCalls v) s = .next ((dataTransaction s v).withCalls []) := by
  rw [← List.append_nil (dataCalls v), runCalls_dataCalls_append]
  rfl

/-- Settles O39: both are one data write; the transaction leaves its lines in the latch besides. -/
theorem sendDataIsDataWithoutTheLatch : Obligations.SendDataIsDataWithoutTheLatch := fun s v =>
  ⟨(writeData s v).withCalls [], runCalls_sendData v s, writeData_rs s v, writeData_rw s v, writeData_enp s v,
    runCalls_dataCalls v s⟩

/-! ### `refresh` -/

theorem refresh_withCalls (s : State) (calls : List HostCall) :
    refresh (s.withCalls calls) = (refresh s).withCalls calls :=
  updateCursor_withCalls (render s) calls

theorem step_refresh (s : State) (rest : List HostCall) (hh : s.host = .refresh :: rest) :
    step s = .next ((refresh s).withCalls rest) :=
  (step_of_cons s _ rest hh).trans (congrArg Host.Outcome.next (refresh_withCalls s rest))

/-- A run of `render` and then `updateCursor` leaves what `refresh` leaves. -/
theorem runSteps_render_updateCursor (s : State) (rest : List HostCall) :
    runSteps 2 (s.withCalls (.render :: .updateCursor :: rest)) = .next ((refresh s).withCalls rest) := by
  have hrender : step (s.withCalls (.render :: .updateCursor :: rest)) =
      .next ((render s).withCalls (.updateCursor :: rest)) := step_render _ _ rfl
  have hoverlay : step ((render s).withCalls (.updateCursor :: rest)) = .next ((refresh s).withCalls rest) := by
    rw [step_updateCursor _ rest rfl, updateCursor_withCalls]
    rfl
  rw [runSteps_succ 1 _ _ hrender, runSteps_succ 0 _ _ hoverlay, runSteps_zero]

/-- Settles O41: the two runs end in the same state, and the overlay leaves what `render` gave the sink. -/
theorem refreshIsRenderThenUpdateCursor : Obligations.RefreshIsRenderThenUpdateCursor := fun s rest hh =>
  ⟨(refresh s).withCalls rest, step_refresh s rest hh, runSteps_render_updateCursor s rest,
    (updateCursor_sink (render s)).trans (render_sink s)⟩

/-! ### `Preset` -/

/-- Of the four values of the port, 3 alone names no shift mode. -/
theorem isSome_shiftModeOfPort (v : BitVec 2) : (shiftModeOfPort v).isSome = true ↔ v ≠ 3 := by
  revert v; decide

/-- `Preset` is legal exactly when the address it names, if any, is valid and the shift mode it names is not 3. -/
theorem presetLegal_iff (p : Config) (f : PresetFields) :
    presetLegal p f = true ↔ (∀ a ∈ f.ac, validAddr p a) ∧ f.sm ≠ some 3 := by
  rw [presetLegal, Bool.and_eq_true_iff]
  refine and_congr ?_ ?_
  · cases f.ac <;> simp
  · cases f.sm with
    | none => simp
    | some v => simpa using isSome_shiftModeOfPort v

theorem preset_of_illegal (f : PresetFields) (s : State) (h : ¬ presetLegal s.config f = true) :
    preset f s = raiseViolation (.preset f) := if_neg h

/-- Settles O42: the fields are those of the legal branch, each named port value read by its own equation. -/
theorem presetSetsTheNamedRegisters : Obligations.PresetSetsTheNamedRegisters := by
  intro s f rest hh hac hsm
  have hlegal : presetLegal (s.withCalls rest).config f = true := (presetLegal_iff _ f).2 ⟨hac, hsm⟩
  refine ⟨_, (step_of_cons s _ rest hh).trans (if_pos hlegal), rfl, rfl, rfl, rfl, rfl, ?_⟩
  refine ⟨?_, ?_, ?_, ?_, ?_, ?_, ?_⟩ <;> (intro hport; rw [hport]; rfl)

/-! ### `Query` -/

theorem bankOfNat_of_two_le (n : Nat) (h : 2 ≤ n) : bankOfNat n = none := by
  obtain ⟨k, rfl⟩ := Nat.exists_eq_add_of_le' h
  rfl

section
variable (n o : Nat) (s : State)

theorem queryCell_of_lt (k : Bank) (hk : bankOfNat n = some k) (ho : o < s.config.totalColumns) :
    queryCell n o s = .next (answer (.cell (s.cell k o).code (s.cell k o).bmp) s) := by
  simp only [queryCell, hk, if_pos ho]

theorem queryCell_of_bank_out_of_range (h : 2 ≤ n) : queryCell n o s = raiseViolation (.queryCell n o) := by
  simp only [queryCell, bankOfNat_of_two_le n h]

theorem queryCell_of_offset_out_of_range (h : s.config.totalColumns ≤ o) :
    queryCell n o s = raiseViolation (.queryCell n o) := by
  cases hk : bankOfNat n with
  | none => simp only [queryCell, hk]
  | some k => simp only [queryCell, hk, if_neg (Nat.not_lt.2 h)]

theorem queryGlyph_of_lt (h : n < 8) : queryGlyph n s = .next (answer (.glyph s.cgram[n]) s) := dif_pos h

theorem queryGlyph_of_ge (h : 8 ≤ n) : queryGlyph n s = raiseViolation (.queryGlyph n) :=
  dif_neg (Nat.not_lt.2 h)

end

/-- Settles O43: each illegal call, once taken from the host, raises its own violation. -/
theorem illegalPresetAndQueryFault : Obligations.IllegalPresetAndQueryFault := by
  intro s rest
  refine ⟨fun f hh hbad => ?_, fun n o hh hbad => ?_, fun n hh hn => ?_⟩
  · have hillegal : ¬ presetLegal (s.withCalls rest).config f = true := by
      rw [presetLegal_iff]
      rintro ⟨hac, hsm⟩
      obtain ⟨a, ha, hinvalid⟩ | hthree := hbad
      · exact hinvalid (hac a ha)
      · exact hsm hthree
    exact (step_of_cons s _ rest hh).trans (preset_of_illegal f _ hillegal)
  · refine (step_of_cons s _ rest hh).trans ?_
    obtain hbank | hoffset := hbad
    · exact queryCell_of_bank_out_of_range n o _ hbank
    · exact queryCell_of_offset_out_of_range n o _ hoffset
  · exact (step_of_cons s _ rest hh).trans (queryGlyph_of_ge n _ hn)

theorem entryModeToPort_eq_true_iff (m : EntryMode) : entryModeToPort m = true ↔ m = .increment := by
  cases m <;> decide

/-- The port values of the three shift modes are distinct. -/
theorem shiftModeToPort_eq_iff (m : ShiftMode) :
    (shiftModeToPort m = 0 ↔ m = .none) ∧ (shiftModeToPort m = 1 ↔ m = .left) ∧
      (shiftModeToPort m = 2 ↔ m = .right) := by
  cases m <;> decide

/-- Settles O44: each query, once taken from the host, adds its answer; the modes are answered by their port values. -/
theorem queryAnswersAndChangesNothing : Obligations.QueryAnswersAndChangesNothing := by
  intro s rest
  refine ⟨fun o ho hh => ?_, fun o ho hh => ?_, fun n hn hh => ?_, fun hh => ?_⟩
  · exact (step_of_cons s _ rest hh).trans (queryCell_of_lt 0 o _ .bank0 rfl ho)
  · exact (step_of_cons s _ rest hh).trans (queryCell_of_lt 1 o _ .bank1 rfl ho)
  · exact (step_of_cons s _ rest hh).trans (queryGlyph_of_lt n _ hn)
  · exact ⟨regsReply s, step_of_cons s _ rest hh, rfl, rfl, rfl, rfl, rfl, rfl, rfl, rfl,
      entryModeToPort_eq_true_iff s.em, shiftModeToPort_eq_iff s.sm⟩

end Sys2Proof.Machine
end

section
/-! PROOFS. What can stop a step (spec/60_exceptions.md R280, R284): a call of a host port that violates the host's
contract, and nothing else; and the access at an invalid address, which is no fault (R281). -/

namespace Sys2Proof.Machine

open Sys2Proof

/-! ### Contract violations -/

/-- The calls that violate the host's contract, each with the port and value its fault names. -/
inductive Violates (p : Config) : HostCall → Violation → Prop
  | customGlyphSlot (slot : Nat) (g : Bitmap) (hslot : 8 ≤ slot) (hp : p.slotOor = .failFast) :
      Violates p (.writeCustomGlyph slot g) (.customGlyphSlot slot)
  | preset (f : PresetFields) (h : presetLegal p f = false) : Violates p (.preset f) (.preset f)
  | queryCell (k o : Nat) (h : 2 ≤ k ∨ p.totalColumns ≤ o) : Violates p (.queryCell k o) (.queryCell k o)
  | queryGlyph (n : Nat) (h : 8 ≤ n) : Violates p (.queryGlyph n) (.queryGlyph n)

/-- The outcome is a next state, or the fault of the contract violation that the call is. -/
def NextOrViolation (p : Config) (call : HostCall) (outcome : Host.Outcome State Fault Refusal) : Prop :=
  (∃ t, outcome = .next t) ∨ ∃ what, Violates p call what ∧ outcome = raiseViolation what

theorem exists_bank_of_lt_two (n : Nat) (h : n < 2) : ∃ k, bankOfNat n = some k := by
  obtain rfl | rfl : n = 0 ∨ n = 1 := by omega
  · exact ⟨.bank0, rfl⟩
  · exact ⟨.bank1, rfl⟩

section
variable (s : State)

theorem writeCustomGlyph_outcome (slot : Nat) (g : Bitmap) :
    NextOrViolation s.config (.writeCustomGlyph slot g) (writeCustomGlyph slot g s) := by
  obtain hslot | hslot := Nat.lt_or_ge slot 8
  · exact .inl ⟨_, writeCustomGlyph_of_lt s slot g hslot⟩
  · cases hp : s.config.slotOor with
    | failFast => exact .inr ⟨_, .customGlyphSlot slot g hslot hp, writeCustomGlyph_of_failFast s slot g hslot hp⟩
    | ignore => exact .inl ⟨_, writeCustomGlyph_of_ignore s slot g hslot hp⟩

theorem preset_outcome (f : PresetFields) : NextOrViolation s.config (.preset f) (preset f s) := by
  by_cases hlegal : presetLegal s.config f = true
  · exact .inl ⟨_, if_pos hlegal⟩
  · exact .inr ⟨_, .preset f (Bool.eq_false_iff.2 hlegal), preset_of_illegal f s hlegal⟩

theorem queryCell_outcome (n o : Nat) : NextOrViolation s.config (.queryCell n o) (queryCell n o s) := by
  obtain hn | hn := Nat.lt_or_ge n 2
  · obtain ⟨k, hk⟩ := exists_bank_of_lt_two n hn
    obtain ho | ho := Nat.lt_or_ge o s.config.totalColumns
    · exact .inl ⟨_, queryCell_of_lt n o s k hk ho⟩
    · exact .inr ⟨_, .queryCell n o (.inr ho), queryCell_of_offset_out_of_range n o s ho⟩
  · exact .inr ⟨_, .queryCell n o (.inl hn), queryCell_of_bank_out_of_range n o s hn⟩

theorem queryGlyph_outcome (n : Nat) : NextOrViolation s.config (.queryGlyph n) (queryGlyph n s) := by
  obtain hn | hn := Nat.lt_or_ge n 8
  · exact .inl ⟨_, queryGlyph_of_lt n s hn⟩
  · exact .inr ⟨_, .queryGlyph n hn, queryGlyph_of_ge n s hn⟩

theorem serve_outcome (call : HostCall) : NextOrViolation s.config call (serve call s) := by
  cases call with
  | edge rs rw en db => exact .inl ⟨_, handleBusEdge_eq rs rw en db s⟩
  | sendData v => exact .inl ⟨_, rfl⟩
  | refresh => exact .inl ⟨_, rfl⟩
  | render => exact .inl ⟨_, rfl⟩
  | updateCursor => exact .inl ⟨_, rfl⟩
  | writeCustomGlyph slot g => exact writeCustomGlyph_outcome s slot g
  | preset f => exact preset_outcome s f
  | queryCell n o => exact queryCell_outcome s n o
  | queryGlyph n => exact queryGlyph_outcome s n
  | queryRegs => exact .inl ⟨_, rfl⟩

/-- A step answers a next state, or its call is a contract violation and the step is that fault. -/
theorem step_next_or_violation :
    (∃ t, step s = .next t) ∨
      ∃ call rest what, s.host = call :: rest ∧ Violates s.config call what ∧ step s = raiseViolation what := by
  cases hh : s.host with
  | nil => exact .inl ⟨s, step_of_nil s hh⟩
  | cons call rest =>
    rw [step_of_cons s call rest hh]
    obtain hnext | ⟨what, hviolates, hfault⟩ := serve_outcome (s.withCalls rest) call
    · exact .inl hnext
    · exact .inr ⟨call, rest, what, rfl, hviolates, hfault⟩

end

/-- Settles O57: the five operations are whole functions of the state, and the step is their answer. -/
theorem deviceOperationsAreTotal : Obligations.DeviceOperationsAreTotal := by
  intro s call rest hh hcall
  obtain ⟨rs, rw, en, db, rfl⟩ | ⟨v, rfl⟩ | rfl | rfl | rfl := hcall
  · exact ⟨_, step_of_edge hh⟩
  · exact ⟨_, (step_of_cons s _ rest hh).trans (serve_sendData s v rest)⟩
  · exact ⟨_, step_render s rest hh⟩
  · exact ⟨_, step_updateCursor s rest hh⟩
  · exact ⟨_, step_refresh s rest hh⟩

/-- Settles O58: a step that is no next state is the fault of its call's violation, one case per kind of violation. -/
theorem onlyHostPortViolationsStop : Obligations.OnlyHostPortViolationsStop := by
  intro s
  obtain ⟨t, hnext⟩ | ⟨call, rest, what, hh, hviolates, hfault⟩ := step_next_or_violation s
  · rw [hnext]
    exact ⟨nofun, nofun⟩
  · rw [hfault, raiseViolation]
    refine ⟨nofun, fun f hf => ⟨rest, ?_⟩⟩
    obtain rfl : .contractViolation what = f := Host.Outcome.fault.inj hf
    cases hviolates with
    | customGlyphSlot slot g hslot hp => exact .inl ⟨slot, g, hh, hslot, hp, rfl⟩
    | preset f h => exact .inr (.inl ⟨f, hh, h, rfl⟩)
    | queryCell k o h => exact .inr (.inr (.inl ⟨k, o, hh, h, rfl⟩))
    | queryGlyph n h => exact .inr (.inr (.inr ⟨n, hh, h, rfl⟩))

/-! ### Accesses at an invalid address -/

section
variable (s : State) (a : Nat) (x : Cell)

theorem memRead_of_invalid (h : ¬ validAddr s.config a) : memRead s a = s.cell .bank0 0 := by
  rw [memRead, decodeAddr_of_invalid _ a h]

theorem memPut_of_invalid (h : ¬ validAddr s.config a) : memPut s a x = s.setCell .bank0 0 x := by
  rw [memPut, decodeAddr_of_invalid _ a h]

theorem cell_setCell_first : (s.setCell .bank0 0 x).cell .bank0 0 = x := read_write_same ..

theorem read_setCell_first_other (h : a ≠ s.config.bank0Base) :
    (s.setCell .bank0 0 x).ddram.read a = s.ddram.read a := read_write_other _ _ a x h

theorem writeData_ddram_of_invalid (v : Byte) (h : ¬ s.AcOk) :
    (writeData s v).ddram = (s.setCell .bank0 0 (setChar s v)).ddram := by
  rw [writeData_ddram, cellAddr_of_invalid _ _ h]
  rfl

/-- The overlay at an invalid AC sets row 7 of the first cell. -/
theorem updateCursor_of_invalid (hc : s.c = true) (h : ¬ s.AcOk) :
    updateCursor s = s.setCell .bank0 0
      { code := (s.cell .bank0 0).code, bmp := (s.cell .bank0 0).bmp.set 7 (cursorRow s) } := by
  rw [updateCursor_of_cursor_on s hc, memPut_of_invalid s _ _ h, cursorCell_eq, memRead_of_invalid s _ h]

end

/-- Settles O20: the write and the overlay at an invalid AC are each one write of the first cell of bank 0. -/
theorem invalidAddressReachesTheFirstCell : Obligations.InvalidAddressReachesTheFirstCell := by
  refine ⟨fun p a => ⟨decodeAddr_of_bank0 p a, decodeAddr_of_bank1 p a, decodeAddr_of_invalid p a⟩,
    fun s hinvalid => ⟨fun v => ?_, fun rest hc hh => ?_⟩⟩
  · have hddram := writeData_ddram_of_invalid s v hinvalid
    refine ⟨writeData s v, exec_data v s, ?_, by rw [writeData_eq], fun a ha => ?_⟩
    · rw [State.cell, hddram, writeData_config]
      exact cell_setCell_first s (setChar s v)
    · rw [hddram]
      exact read_setCell_first_other s a _ ha
  · rw [step_updateCursor s rest hh, updateCursor_of_invalid s hc hinvalid]
    exact ⟨_, rfl, cell_setCell_first s _, rfl, fun a ha => read_setCell_first_other s a _ ha⟩

end Sys2Proof.Machine
end

section
/-! PROOFS. Reset, interleaving and idleness (spec/70_reset_and_hazards.md R311, R323, R324). -/

namespace Sys2Proof.Machine

open Sys2Proof

/-! ### The two calls of a data pulse -/

/-- A call with EN high writes nothing and leaves its lines in the latch. -/
theorem runCalls_data_edge_high (v : Byte) (calls : List HostCall) (s : State) :
    runCalls (.edge true false true v :: calls) s = runCalls calls (s.withLatch true false true) := by
  have hnone : countFalling s.enp [true] = 0 := by simp [countFalling]
  have hserve := serve_data_edge s true v calls
  rw [hnone] at hserve
  exact runCalls_cons hserve

/-- A call with EN low after one with EN high is one data write. -/
theorem runCalls_data_edge_low (v : Byte) (calls : List HostCall) (s : State) :
    runCalls (.edge true false false v :: calls) (s.withLatch true false true) =
      runCalls calls ((writeData s v).withLatch true false false) := by
  have hserve := serve_data_edge (s.withLatch true false true) false v calls
  rw [writeTimes_withLatch] at hserve
  exact runCalls_cons hserve

/-- Settles O40: `sendData` leaves the latch with EN high, so the pulse's second call still falls. -/
theorem sendDataInsideAPulseKeepsBothWrites : Obligations.SendDataInsideAPulseKeepsBothWrites := by
  intro s u v
  rw [runCalls_data_edge_high, runCalls_cons (serve_sendData _ u _), writeData_withLatch, runCalls_data_edge_low,
    writeData_withCalls, writeData_withCalls]
  rfl

/-! ### Reset and the idle step -/

/-- Settles O46: the default construction is legal, and its reset values are those of the default parameters. -/
theorem resetStateWithTheDefaults : Obligations.ResetStateWithTheDefaults :=
  ⟨construct_of_legal _ default_legal, rfl, rfl, rfl, rfl, rfl, rfl, rfl, rfl, rfl, rfl, rfl, rfl, rfl⟩

/-- Settles O59: with no call to serve a step is idle. -/
theorem idleStepChangesNothing : Obligations.IdleStepChangesNothing := step_of_nil

end Sys2Proof.Machine
end
